-- ==== Sys2Proof/Word.lean ====
section
/-! DEFINITION. The word types of the block: the byte, and the widths of the five encoded formats
(spec/30_encoding.md R51). Every field of a block is one unsigned byte (R63, spec/00_scope.md R9). -/

namespace Sys2Proof

/-- A byte, 0 to 255, bit 7 most significant (R9, R40). Also the formats PLB and TXB (R51). -/
abbrev Byte := BitVec 8

/-- Format RXEV, one result of a read: bit 8 `err`, bits 7:0 `data` (R53). -/
abbrev RxWord := BitVec 9

/-- Format HOST, the host's two inputs: bit 1 `rst`, bit 0 `start` (R57). -/
abbrev HostWord := BitVec 2

/-- Format BLK72, one block of nine bytes, the marker most significant (R54). -/
abbrev BlkWord := BitVec 72

/-- The code of ST on the output port `state` (R26). -/
abbrev StateCode := BitVec 3

end Sys2Proof
end

