-- ==== Sys2Proof/Config.lean ====
section
/-! DEFINITION. The parameters of the block (spec/00_scope.md R6): every value the source gives is
fixed and none is configurable at run time. At the end the one free value of the model. -/

namespace Sys2Proof.Config

/-- Start-of-block marker (R6, R52). -/
abbrev soh : Byte := 0x01

/-- Padding sentinel (R6, R52). -/
abbrev pad : Byte := 0x03

/-- End of transmission (R6, R52). -/
abbrev eot : Byte := 0x04

/-- Acknowledge (R6, R52). -/
abbrev ack : Byte := 0x06

/-- Negative acknowledge (R6, R52). -/
abbrev nak : Byte := 0x15

/-- Bytes in a block on the wire (R6). -/
abbrev blockLen : Nat := 9

/-- Payload bytes in a block (R6). -/
abbrev payloadLen : Nat := 5

/-- Modulus of the payload sum (R6). -/
abbrev checksumMod : Nat := 256

/-- FREE VALUE: what byte `i` of BLK holds after the `n`-th RESET operation, which the spec leaves
unspecified (R24, R119, 93_implementation_defined.md U11). It has no body, so nothing can be proved of
its value (log entry 2). -/
opaque resetBlkByte : Nat → Nat → Byte

end Sys2Proof.Config
end

