-- ==== Sys2Proof/Syntax.lean ====
section
/-! DEFINITION. What is encoded and decoded: the values of ST (which choose the decode table), the
fields of a completed block, the operations of the opcode table (one constructor per row of
spec/opcode_table.json), the error classes and the encoded words of the five formats. -/

namespace Sys2Proof

/-- The values of ST, the state register (spec/10_state.md R14). It is the only mode that changes
decoding (R65). -/
inductive St where
  /-- Reset done, session not begun; no read is outstanding. -/
  | idle
  /-- A read is outstanding; its result is looked at as a possible marker. -/
  | awaitingStart
  /-- The marker was seen; a read of a byte of the block body is outstanding. -/
  | readingBlock
  /-- Nine bytes are held; no read is outstanding. -/
  | validating
  /-- The session is over; no read is outstanding; the Message is complete. -/
  | terminated
deriving DecidableEq, Repr

/-- The fields of a completed block after its marker, in wire order: BLK[1] to BLK[8] (R16, R54). -/
structure BlockFields where
  /-- sequenceNumber, BLK[1] -/
  seq : Byte
  /-- sequenceComplement, BLK[2] -/
  cmp : Byte
  /-- payload byte 0, BLK[3] -/
  p0 : Byte
  /-- payload byte 1, BLK[4] -/
  p1 : Byte
  /-- payload byte 2, BLK[5] -/
  p2 : Byte
  /-- payload byte 3, BLK[6] -/
  p3 : Byte
  /-- payload byte 4, BLK[7] -/
  p4 : Byte
  /-- checksum, BLK[8] -/
  cks : Byte
deriving DecidableEq, Repr

/-- The operations, one constructor per row of spec/opcode_table.json. An operand is a field of the
encoded word that the row leaves variable. -/
inductive Instr where
  /-- RESET, HOST word 0b1x; the operand is the bit x, the `start` input, which has no effect (R119, R57). -/
  | reset (startBit : Bool)
  /-- START, HOST word 0b01 (R89). -/
  | start
  /-- RX_FAIL, RXEV word with `err` = 1; the operand is the ignored `data` field (R92, R53). -/
  | rxFail (ignored : Byte)
  /-- RX_EOT, RXEV word 0x004 (R91). -/
  | rxEot
  /-- RX_SOH, RXEV word 0x001 (R68). -/
  | rxSoh
  /-- RX_SKIP, a read byte that is neither 0x01 nor 0x04 in AwaitingStart (R69). -/
  | rxSkip (data : Byte)
  /-- RX_BODY, a read byte in ReadingBlock (R70). -/
  | rxBody (data : Byte)
  /-- V_REJECT_CMP, a completed block with a wrong complement (R82). -/
  | vRejectCmp (f : BlockFields)
  /-- V_REJECT_SUM, a completed block with a right complement and a wrong checksum (R83). -/
  | vRejectSum (f : BlockFields)
  /-- V_ACCEPT, a valid completed block (R84). -/
  | vAccept (f : BlockFields)
  /-- PL_DROP, a payload byte of an accepted block that is padding, 0x03 (R56, R78). -/
  | plDrop
  /-- PL_KEEP, a payload byte of an accepted block that is not padding (R56, R78). -/
  | plKeep (value : Byte)
  /-- TX_ACK, the byte 0x06 written to the transport (R55, R60). -/
  | txAck
  /-- TX_NAK, the byte 0x15 written to the transport (R55, R60). -/
  | txNak
deriving DecidableEq, Repr

/-- The four error classes (spec/60_exceptions.md R103). They have no numeric codes. -/
inductive ErrorClass where
  /-- E_STRUCT, structural error: sequence complement mismatch (R104). -/
  | structural
  /-- E_INTEG, integrity error: checksum mismatch (R105). -/
  | integrity
  /-- E_DESYNC, stream desynchronization: unexpected byte where a marker was expected (R106). -/
  | desync
  /-- E_XPORT, transport failure: a read returned `Fail` (R107). -/
  | transport
deriving DecidableEq, Repr

/-- One encoded word with its format (R51). -/
inductive Code where
  /-- Format HOST (R57). -/
  | host (w : HostWord)
  /-- Format RXEV (R53). -/
  | rxev (w : RxWord)
  /-- Format BLK72 (R54). -/
  | blk72 (w : BlkWord)
  /-- Format PLB (R56). -/
  | plb (b : Byte)
  /-- Format TXB (R55). -/
  | txb (b : Byte)
deriving DecidableEq, Repr

end Sys2Proof
end

