-- ==== Sys2Proof/Machine/Operands.lean ====
section
/-! DEFINITION. The operand forms: the fields of the encoded words (spec/30_encoding.md R53, R54, R57)
and the block buffer seen as the fields of a block (spec/10_state.md R16). No field is scattered,
extended, scaled or shifted (R63). -/

namespace Sys2Proof.Machine

/-- HOST word of the two host inputs: bit 1 `rst`, bit 0 `start` (R57). -/
def mkHost (rst start : Bool) : HostWord := BitVec.ofBool rst ++ BitVec.ofBool start

/-- The `rst` field of a HOST word (R57). -/
def hostRst (w : HostWord) : Bool := w.getLsbD 1

/-- The `start` field of a HOST word (R57). -/
def hostStart (w : HostWord) : Bool := w.getLsbD 0

/-- RXEV word of a failure flag and a data byte (R53). -/
def mkRx (err : Bool) (data : Byte) : RxWord := BitVec.ofBool err ++ data

/-- `Byte(b)` is the word 0b0 ++ b (R53). -/
def byteWord (b : Byte) : RxWord := mkRx false b

/-- `Fail` is any word with bit 8 set (R53). -/
def failWord (ignored : Byte) : RxWord := mkRx true ignored

/-- The `err` field of an RXEV word (R53). -/
def rxErr (w : RxWord) : Bool := w.getLsbD 8

/-- The `data` field of an RXEV word (R53). -/
def rxData (w : RxWord) : Byte := w.extractLsb' 0 8

/-- What a read returns: a byte, or `Fail`, which carries none (spec/20_memory.md R35). -/
inductive RxResult where
  | byte (b : Byte)
  | fail
deriving DecidableEq, Repr

/-- The result an RXEV word stands for: `data` is ignored when `err` = 1 (R53). -/
def rxResult (w : RxWord) : RxResult := if rxErr w then .fail else .byte (rxData w)

/-- BLK72 word of a marker and the eight fields after it (R54). -/
def packBlk (marker : Byte) (f : BlockFields) : BlkWord :=
  marker ++ f.seq ++ f.cmp ++ f.p0 ++ f.p1 ++ f.p2 ++ f.p3 ++ f.p4 ++ f.cks

/-- Byte `i` of a BLK72 word, bits [71-8i : 64-8i] (R54). -/
def blkByte (w : BlkWord) (i : Nat) : Byte := w.extractLsb' (64 - 8 * i) 8

/-- The fields of a BLK72 word after its marker (R54). -/
def wordFields (w : BlkWord) : BlockFields :=
  { seq := blkByte w 1, cmp := blkByte w 2, p0 := blkByte w 3, p1 := blkByte w 4, p2 := blkByte w 5,
    p3 := blkByte w 6, p4 := blkByte w 7, cks := blkByte w 8 }

/-- The fields of the block held in BLK: BLK[1] seq, BLK[2] cmp, BLK[3..7] payload, BLK[8] cks (R16). -/
def bufferFields (blk : Vector Byte 9) : BlockFields :=
  { seq := blk[1], cmp := blk[2], p0 := blk[3], p1 := blk[4], p2 := blk[5], p3 := blk[6], p4 := blk[7],
    cks := blk[8] }

/-- The nine bytes of a block in wire order, marker first (R39). -/
def blockBytes (f : BlockFields) : List Byte :=
  [Config.soh, f.seq, f.cmp, f.p0, f.p1, f.p2, f.p3, f.p4, f.cks]

/-- The five payload bytes in the order read (R39). -/
def payload (f : BlockFields) : List Byte := [f.p0, f.p1, f.p2, f.p3, f.p4]

/-- The operand of PL_KEEP or PL_DROP is padding: the exact value 0x03 (R56). -/
def isPad (b : Byte) : Bool := b == Config.pad

end Sys2Proof.Machine
end

