-- ==== Sys2Proof/Machine/Flags.lean ====
section
/-! DEFINITION. The block has no flags or condition codes (spec/10_state.md R20). What stands in their
place are the computed conditions of the checksum validator (spec/41_checksum_validator.md R74 to R78)
and the status that ST shows on its ports (R26). -/

namespace Sys2Proof.Machine

/-- `Checksum`: the sum of the five payload bytes in the natural numbers, modulo 256 (R74). -/
def checksum (p0 p1 p2 p3 p4 : Byte) : Byte :=
  BitVec.ofNat 8 ((p0.toNat + p1.toNat + p2.toNat + p3.toNat + p4.toNat) % Config.checksumMod)

/-- SUM, the checksum of a block's payload (R74). -/
def payloadSum (f : BlockFields) : Byte := checksum f.p0 f.p1 f.p2 f.p3 f.p4

/-- `ComplementOK`: cmp == 255 - seq, the subtraction done in the natural numbers (R75). -/
def complementOK (f : BlockFields) : Bool := f.cmp.toNat == 255 - f.seq.toNat

/-- `ChecksumOK`: cks == SUM (R76). -/
def checksumOK (f : BlockFields) : Bool := f.cks == payloadSum f

/-- `BlockValid` = ComplementOK and ChecksumOK; nothing else enters (R77). -/
def blockValid (f : BlockFields) : Bool := complementOK f && checksumOK f

/-- `PadFilter`: the payload bytes, in order, whose value is not 0x03 (R78). -/
def padFilter (p : List Byte) : List Byte := p.filter (fun b => !isPad b)

/-- The code of ST on the output port `state` (R26). -/
def stateCode : St → StateCode
  | .idle => 0b000
  | .awaitingStart => 0b001
  | .readingBlock => 0b010
  | .validating => 0b011
  | .terminated => 0b100

/-- A read is outstanding in AwaitingStart and ReadingBlock only (R14, R35). -/
def readsInput : St → Bool
  | .awaitingStart => true
  | .readingBlock => true
  | .idle => false
  | .validating => false
  | .terminated => false

end Sys2Proof.Machine
end

