-- ==== Sys2Proof/WellFormed.lean ====
section
/-! DEFINITION. Which operations are well formed: the conditions on operands that the opcode table's
rows state beside their masks (`source_fields` and `constraint` of spec/opcode_table.json). -/

namespace Sys2Proof

/-- An operation's operands meet the condition its row states. -/
def Instr.wf : Instr → Bool
  | .reset _ => true
  | .start => true
  | .rxFail _ => true
  | .rxEot => true
  | .rxSoh => true
  | .rxSkip d => d != Config.soh && d != Config.eot
  | .rxBody _ => true
  | .vRejectCmp f => !Machine.complementOK f
  | .vRejectSum f => Machine.complementOK f && !Machine.checksumOK f
  | .vAccept f => Machine.complementOK f && Machine.checksumOK f
  | .plDrop => true
  | .plKeep v => !Machine.isPad v
  | .txAck => true
  | .txNak => true

/-- The values of ST in which an operation's row applies (the key `state` of spec/opcode_table.json). -/
def Instr.modes : Instr → List St
  | .reset _ => [.idle, .awaitingStart, .readingBlock, .validating, .terminated]
  | .start => [.idle]
  | .rxFail _ => [.awaitingStart, .readingBlock]
  | .rxEot => [.awaitingStart]
  | .rxSoh => [.awaitingStart]
  | .rxSkip _ => [.awaitingStart]
  | .rxBody _ => [.readingBlock]
  | .vRejectCmp _ => [.validating]
  | .vRejectSum _ => [.validating]
  | .vAccept _ => [.validating]
  | .plDrop => [.validating]
  | .plKeep _ => [.validating]
  | .txAck => [.validating, .awaitingStart]
  | .txNak => [.idle, .validating]

end Sys2Proof
end

