-- ==== Sys2Proof/Decode.lean ====
section
/-! DEFINITION. The decoder (spec/30_encoding.md R56 to R62), total on every word of every format and in
every value of ST, which names each word it gives no operation; the encoder written from the same tables;
and the reading of a word of spec/opcode_table.json that has lost its format. -/

namespace Sys2Proof

open Sys2Proof.Machine

/-- Why a word gives no operation. None of these is a trap (R64): the block does nothing and consumes
nothing. -/
inductive Reject where
  /-- HOST word 0b00: nothing (R57). -/
  | hostQuiet
  /-- HOST word 0b01 outside Idle: no effect (R57). -/
  | startIgnored
  /-- A read result while no read is outstanding: not decoded, not consumed (R62). -/
  | noReadOutstanding
  /-- A block or a payload byte while ST is not Validating (R61). -/
  | notValidating
  /-- A 72-bit word whose marker field is not 0x01 is no completed block (R54). -/
  | badMarker
  /-- A byte the block never transmits (R55). -/
  | neverTransmitted
  /-- ACK or NAK in a state in which no operation writes it (R60). -/
  | notTransmittedHere
deriving DecidableEq, Repr

/-- Decode of the host's inputs (R57). -/
def decodeHost (st : St) (w : HostWord) : Except Reject Instr :=
  if hostRst w then .ok (.reset (hostStart w))
  else if hostStart w then (if st = .idle then .ok .start else .error .startIgnored)
  else .error .hostQuiet

/-- Decode of a read result in AwaitingStart, first matching row wins (R58). -/
def decodeAwaiting (w : RxWord) : Instr :=
  if rxErr w then .rxFail (rxData w)
  else if rxData w = Config.eot then .rxEot
  else if rxData w = Config.soh then .rxSoh
  else .rxSkip (rxData w)

/-- Decode of a read result in ReadingBlock, first matching row wins (R59). -/
def decodeReading (w : RxWord) : Instr :=
  if rxErr w then .rxFail (rxData w) else .rxBody (rxData w)

/-- Decode of a read result in every state (R58, R59, R62). -/
def decodeRx (st : St) (w : RxWord) : Except Reject Instr :=
  match st with
  | .awaitingStart => .ok (decodeAwaiting w)
  | .readingBlock => .ok (decodeReading w)
  | .idle => .error .noReadOutstanding
  | .validating => .error .noReadOutstanding
  | .terminated => .error .noReadOutstanding

/-- Decode of a completed block, a function of BLK alone, first matching row wins (R61). -/
def decodeBlock (f : BlockFields) : Instr :=
  if complementOK f = false then .vRejectCmp f
  else if checksumOK f = false then .vRejectSum f
  else .vAccept f

/-- Decode of a payload byte of an accepted block, on its value alone (R56). -/
def decodePlb (b : Byte) : Instr := if isPad b then .plDrop else .plKeep b

/-- Decode of a byte of the transport's send side (R55, R60; the states are the opcode table's). -/
def decodeTxb (st : St) (b : Byte) : Except Reject Instr :=
  if b = Config.ack then
    (if st = .validating ∨ st = .awaitingStart then .ok .txAck else .error .notTransmittedHere)
  else if b = Config.nak then
    (if st = .idle ∨ st = .validating then .ok .txNak else .error .notTransmittedHere)
  else .error .neverTransmitted

/-- The decoder: an encoded word in a value of ST (R57 to R62). -/
def decode (st : St) (c : Code) : Except Reject Instr :=
  match c with
  | .host w => decodeHost st w
  | .rxev w => decodeRx st w
  | .blk72 w =>
    if st = .validating then
      (if blkByte w 0 = Config.soh then .ok (decodeBlock (wordFields w)) else .error .badMarker)
    else .error .notValidating
  | .plb b => if st = .validating then .ok (decodePlb b) else .error .notValidating
  | .txb b => decodeTxb st b

/-- The encoder: the word of an operation (R53 to R57). -/
def encode : Instr → Code
  | .reset b => .host (mkHost true b)
  | .start => .host (mkHost false true)
  | .rxFail d => .rxev (failWord d)
  | .rxEot => .rxev (byteWord Config.eot)
  | .rxSoh => .rxev (byteWord Config.soh)
  | .rxSkip d => .rxev (byteWord d)
  | .rxBody d => .rxev (byteWord d)
  | .vRejectCmp f => .blk72 (packBlk Config.soh f)
  | .vRejectSum f => .blk72 (packBlk Config.soh f)
  | .vAccept f => .blk72 (packBlk Config.soh f)
  | .plDrop => .plb Config.pad
  | .plKeep v => .plb v
  | .txAck => .txb Config.ack
  | .txNak => .txb Config.nak

/-- The format and the value of ST that a bare word of `nbits` bits is read in (log entry 6): 72 bits are
a block in Validating; up to 16 bits a read result in AwaitingStart; up to 8 bits the two HOST rows' words
first, then the two bytes of TXB, and every other byte as a payload byte. -/
def tableCode (nbits w : Nat) : Option (St × Code) :=
  if nbits = 0 then none
  else if nbits ≤ 8 then
    (if w = 1 ∨ w = 2 then some (.idle, .host (BitVec.ofNat 2 w))
     else if w = 6 ∨ w = 0x15 then some (.validating, .txb (BitVec.ofNat 8 w))
     else if w < 256 then some (.validating, .plb (BitVec.ofNat 8 w))
     else none)
  else if nbits ≤ 16 then
    (if w < 512 then some (.awaitingStart, .rxev (BitVec.ofNat 9 w)) else none)
  else if nbits = 72 then
    (if w < 2 ^ 72 then some (.validating, .blk72 (BitVec.ofNat 72 w)) else none)
  else none

/-- The operation the decoder reads from a word numbered as spec/opcode_table.json numbers it (log entry 6). -/
def decodeTableWord (nbits w : Nat) : Option Instr :=
  match tableCode nbits w with
  | none => none
  | some (st, c) => (decode st c).toOption

end Sys2Proof
end

