-- ==== Sys2Proof/Machine/State.lean ====
section
/-! DEFINITION. The state of the block (spec/10_state.md R13: ST, IDX, BLK, MSG, TXLOG), the inputs the
environment presents to it (R19, R57), and two fields of the model's own (log entries 2 and 3). Plain data. -/

namespace Sys2Proof.Machine

/-- One port activity of the block: a completed read, a byte written, a byte appended (R27, R28, R29). -/
inductive PortEvent where
  /-- A read completed with this result on the `rx` ports (R27). -/
  | rx (w : RxWord)
  /-- One cycle of `tx_valid` with this byte (R28). -/
  | tx (b : Byte)
  /-- One cycle of `pl_valid` with this byte (R29). -/
  | pl (b : Byte)
deriving DecidableEq, Repr

/-- The machine's state. -/
structure State where
  /-- ST, the state register (R14). -/
  st : St
  /-- IDX, the number of bytes of the block in progress held in BLK, 0 to 9 (R15). -/
  idx : Fin 10
  /-- BLK[0..8], the block buffer (R16). -/
  blk : Vector Byte 9
  /-- MSG, the Message: everything the payload port has carried since reset (R17). -/
  msg : List Byte
  /-- TXLOG, every byte written to the transport since reset, oldest first (R18). -/
  txlog : List Byte
  /-- ENVIRONMENT: the results of reads supplied so far and not yet consumed, next first; empty means that
  nothing has arrived (R19, R21; log entry 1). -/
  rx : List RxWord
  /-- ENVIRONMENT: the level of the host's input `rst` at the next step (R26, R30). -/
  rst : Bool
  /-- ENVIRONMENT: the level of the host's input `start` at the next step (R26, R30). -/
  start : Bool
  /-- MODEL'S OWN history variable: the block's port activity since reset in order (R31; log entry 3). -/
  trace : List PortEvent
  /-- MODEL'S OWN counter of the free values drawn: RESET operations performed (log entry 2). -/
  draws : Nat
deriving DecidableEq, Repr

/-- The reasons for which the machine stops with a fault. There is none: the block has no trap mechanism
(spec/60_exceptions.md R102), no access can be refused (R44), nothing traps on decode (R64), and each of its
four error classes is handled by an operation. Nothing raises a fault. -/
inductive Fault
deriving DecidableEq, Repr

/-- The reasons for which an operation is refused. -/
inductive Refusal where
  /-- Raised by `exec` for an operation that has no meaning in the model, by its mnemonic; safe, since the
  machine stops. No arm of `exec` raises it: every operation has its meaning. -/
  | notModelled (mnemonic : String)
deriving DecidableEq, Repr

/-- The machine right after reset (R24): Idle, IDX 0, empty histories. BLK has no specified value there and
holds zeros in the model (log entry 2, DESIGN CHOICE); the environment presents nothing. -/
def State.reset : State :=
  { st := .idle, idx := 0, blk := Vector.replicate 9 0, msg := [], txlog := [], rx := [], rst := false,
    start := false, trace := [], draws := 0 }

end Sys2Proof.Machine
end

