-- ==== Sys2Proof/Machine/Ops.lean ====
section
/-! DEFINITION. The named operations that the meanings share: the three access primitives RxRead, TxWrite and
MsgAppend (spec/20_memory.md R35 to R37), the writes of the block buffer, the handling of the four error
classes (spec/60_exceptions.md R103, R111) and the return from it (R113), reset, and the two guards under which
an operation is enabled (spec/42_protocol_sequencer.md R88). -/

namespace Sys2Proof.Machine

/-- `s` with the next element `w` of the input stream removed, `rest` being what follows it (R35). -/
def consume (w : RxWord) (rest : List RxWord) (s : State) : State :=
  { s with rx := rest, trace := s.trace ++ [.rx w] }

/-- RxRead: with a read outstanding, remove the next element of the input stream and return it; none while the
stream supplies none, and then the block waits (R35). -/
def rxRead (s : State) : Option (RxWord × State) :=
  if readsInput s.st then
    match s.rx with
    | [] => none
    | w :: rest => some (w, consume w rest s)
  else none

/-- TxWrite(v): TXLOG <- TXLOG ++ [v]; it always succeeds and never blocks (R36, R28). -/
def txWrite (v : Byte) (s : State) : State :=
  { s with txlog := s.txlog ++ [v], trace := s.trace ++ [.tx v] }

/-- MsgAppend(v): MSG <- MSG ++ [v]; it always succeeds and never blocks (R37, R29). -/
def msgAppend (v : Byte) (s : State) : State :=
  { s with msg := s.msg ++ [v], trace := s.trace ++ [.pl v] }

/-- IDX <- 0; ST <- AwaitingStart: how the three validation outcomes go on (R81), and the return from a
recoverable error, which is no instruction of its own (R113). -/
def rearm (s : State) : State := { s with idx := 0, st := .awaitingStart }

/-- TxWrite(NAK); ST <- AwaitingStart: the ready NAK; IDX and MSG are not written (R89). -/
def sendReady (s : State) : State := { txWrite Config.nak s with st := .awaitingStart }

/-- TxWrite(ACK); ST <- Terminated: the end of transmission is confirmed; IDX is not written (R91). -/
def confirmEnd (s : State) : State := { txWrite Config.ack s with st := .terminated }

/-- IDX <- 0; ST <- Terminated, with nothing written to TX or MSG (R92). -/
def abandon (s : State) : State := { s with idx := 0, st := .terminated }

/-- The handling of an error class, which stands in the place of taking an exception (R102, R103, R111):
nothing is saved; E_STRUCT and E_INTEG write one NAK and go on in AwaitingStart, E_DESYNC changes nothing,
E_XPORT ends the session and writes nothing. -/
def takeError (e : ErrorClass) (s : State) : State :=
  match e with
  | .structural => rearm (txWrite Config.nak s)
  | .integrity => rearm (txWrite Config.nak s)
  | .desync => s
  | .transport => abandon s

/-- BLK[0] <- 0x01; IDX <- 1; ST <- ReadingBlock (R68). -/
def storeMarker (s : State) : State :=
  { s with blk := s.blk.set 0 Config.soh, idx := 1, st := .readingBlock }

/-- BLK[IDX] <- b; IDX <- IDX + 1; if IDX == 9 then ST <- Validating, IDX being the new value (R70). At IDX = 9
there is no BLK[9] and nothing is written: no operation adds to IDX at 9 (R15). -/
def storeBody (b : Byte) (s : State) : State :=
  if h : s.idx.val < 9 then
    { s with
      blk := s.blk.set s.idx.val b h
      idx := ⟨s.idx.val + 1, Nat.succ_lt_succ h⟩
      st := if s.idx.val + 1 = 9 then .validating else s.st }
  else s

/-- What V_ACCEPT does with one payload byte: if it is not 0x03 then MsgAppend (R84, R78). -/
def filterByte (s : State) (b : Byte) : State := if isPad b then s else msgAppend b s

/-- The appends of V_ACCEPT, in payload order, then its ACK, then IDX <- 0; ST <- AwaitingStart (R84). -/
def acceptBlock (f : BlockFields) (s : State) : State :=
  rearm (txWrite Config.ack ((payload f).foldl filterByte s))

/-- BLK after the `n`-th RESET: unspecified, nine free values (R119, log entry 2). -/
def freeBuffer (n : Nat) : Vector Byte 9 := Vector.ofFn (fun i => Config.resetBlkByte n i.val)

/-- ST <- Idle; IDX <- 0; MSG <- []; TXLOG <- []; BLK unspecified; nothing is sent and no read result is
consumed (R119). The model's trace is a history since reset and begins anew with the other two. -/
def resetAll (s : State) : State :=
  { s with
    st := .idle, idx := 0, blk := freeBuffer s.draws, msg := [], txlog := [], trace := [],
    draws := s.draws + 1 }

/-- An operation that begins with one RxRead: enabled when ST is one of `modes` and the next element of the
input stream is `w`. It consumes that element and goes on as `k` says; not enabled, it does nothing and consumes
nothing (R67, R88). -/
def onRead (modes : List St) (w : RxWord) (k : State → State) (s : State) : Host.Outcome State Fault Refusal :=
  match rxRead s with
  | none => .next s
  | some (v, s1) => if s.st ∈ modes ∧ v = w then .next (k s1) else .next s

/-- An operation that reads no input: enabled under `enabled`; not enabled, it does nothing (R88). -/
def onState (enabled : Bool) (k : State → State) (s : State) : Host.Outcome State Fault Refusal :=
  if enabled then .next (k s) else .next s

/-- The operand of a validation outcome is the block that BLK holds, and ST is Validating (R81, R61). -/
def holdsBlock (f : BlockFields) (s : State) : Bool := s.st == .validating && bufferFields s.blk == f

end Sys2Proof.Machine
end

