-- ==== Sys2Proof/Machine/Framing.lean ====
section
/-! DEFINITION. The framing operations RX_SOH, RX_SKIP and RX_BODY (spec/40_framing.md). -/

namespace Sys2Proof.Machine

/-- RX_SOH: the marker is seen (R68). -/
def execRxSoh (s : State) : Host.Outcome State Fault Refusal :=
  onRead [.awaitingStart] (byteWord Config.soh) storeMarker s

/-- RX_SKIP: a stray byte, neither 0x01 nor 0x04, is discarded; the handling of E_DESYNC (R69, R106). -/
def execRxSkip (d : Byte) (s : State) : Host.Outcome State Fault Refusal :=
  if d ≠ Config.soh ∧ d ≠ Config.eot then onRead [.awaitingStart] (byteWord d) (takeError .desync) s
  else .next s

/-- RX_BODY: one byte of the block body is stored (R70). It adds nothing at IDX = 9 (R15, R88; log entry 5). -/
def execRxBody (d : Byte) (s : State) : Host.Outcome State Fault Refusal :=
  if s.idx.val < 9 then onRead [.readingBlock] (byteWord d) (storeBody d) s else .next s

end Sys2Proof.Machine
end

