-- ==== Sys2Proof/Machine/Sequencer.lean ====
section
/-! DEFINITION. The protocol sequencer: START, RX_EOT and RX_FAIL (spec/42_protocol_sequencer.md), RESET
(spec/70_reset_and_hazards.md R119), and the two bytes it transmits, TX_ACK and TX_NAK (R55, R60). -/

namespace Sys2Proof.Machine

/-- RESET, in every state; the `start` input has no effect beside it (R119, R30). -/
def execReset (_startBit : Bool) (s : State) : Host.Outcome State Fault Refusal := .next (resetAll s)

/-- START, in Idle only: the ready NAK is sent (R89); in any other state it does nothing (R30). -/
def execStart (s : State) : Host.Outcome State Fault Refusal :=
  onState (s.st == .idle) sendReady s

/-- RX_EOT: end of transmission is confirmed by one ACK; IDX is not written (R91). -/
def execRxEot (s : State) : Host.Outcome State Fault Refusal :=
  onRead [.awaitingStart] (byteWord Config.eot) confirmEnd s

/-- RX_FAIL: the transport fails, whatever the `data` field holds; the handling of E_XPORT (R92, R107). -/
def execRxFail (ignored : Byte) (s : State) : Host.Outcome State Fault Refusal :=
  onRead [.awaitingStart, .readingBlock] (failWord ignored) (takeError .transport) s

/-- TX_ACK: the byte 0x06 is written to the transport (R36, R60). V_ACCEPT and RX_EOT perform it within their own
step (log entry 7). -/
def execTxAck (s : State) : Host.Outcome State Fault Refusal :=
  onState (s.st == .validating || s.st == .awaitingStart) (txWrite Config.ack) s

/-- TX_NAK: the byte 0x15 is written to the transport (R36, R60). START, V_REJECT_CMP and V_REJECT_SUM perform it
within their own step (log entry 7). -/
def execTxNak (s : State) : Host.Outcome State Fault Refusal :=
  onState (s.st == .idle || s.st == .validating) (txWrite Config.nak) s

end Sys2Proof.Machine
end

