-- ==== Sys2Proof/Machine/Validator.lean ====
section
/-! DEFINITION. The three outcomes of the checksum validator, V_REJECT_CMP, V_REJECT_SUM and V_ACCEPT
(spec/41_checksum_validator.md), and the padding filter's two cases PL_DROP and PL_KEEP (R56, R78). -/

namespace Sys2Proof.Machine

/-- V_REJECT_CMP: the complement is wrong; the handling of E_STRUCT (R82, R104). -/
def execVRejectCmp (f : BlockFields) (s : State) : Host.Outcome State Fault Refusal :=
  onState (holdsBlock f s && !complementOK f) (takeError .structural) s

/-- V_REJECT_SUM: the complement is right and the checksum wrong; the handling of E_INTEG (R83, R105). -/
def execVRejectSum (f : BlockFields) (s : State) : Host.Outcome State Fault Refusal :=
  onState (holdsBlock f s && (complementOK f && !checksumOK f)) (takeError .integrity) s

/-- V_ACCEPT: the block is valid (R84). -/
def execVAccept (f : BlockFields) (s : State) : Host.Outcome State Fault Refusal :=
  onState (holdsBlock f s && blockValid f) (acceptBlock f) s

/-- PL_DROP: a padding byte of an accepted block is not appended (R56, R78). V_ACCEPT performs it, within its
own step, for each payload byte that equals 0x03 (log entry 7). -/
def execPlDrop (s : State) : Host.Outcome State Fault Refusal :=
  onState (s.st == .validating) (fun t => filterByte t Config.pad) s

/-- PL_KEEP: a payload byte of an accepted block that is not padding is appended to MSG (R56, R78). V_ACCEPT
performs it, within its own step, for each payload byte other than 0x03 (log entry 7). -/
def execPlKeep (v : Byte) (s : State) : Host.Outcome State Fault Refusal :=
  onState (s.st == .validating && !isPad v) (fun t => filterByte t v) s

end Sys2Proof.Machine
end

