-- ==== Sys2Proof/Machine/Dispatch.lean ====
section
/-! DEFINITION. The dispatch: one arm per operation of spec/opcode_table.json. -/

namespace Sys2Proof.Machine

def exec (i : Instr) (s : State) : Host.Outcome State Fault Refusal :=
  match i with
  | .reset b => Sys2Proof.Machine.execReset b s
  | .start => Sys2Proof.Machine.execStart s
  | .rxFail d => Sys2Proof.Machine.execRxFail d s
  | .rxEot => Sys2Proof.Machine.execRxEot s
  | .rxSoh => Sys2Proof.Machine.execRxSoh s
  | .rxSkip d => Sys2Proof.Machine.execRxSkip d s
  | .rxBody d => Sys2Proof.Machine.execRxBody d s
  | .vRejectCmp f => Sys2Proof.Machine.execVRejectCmp f s
  | .vRejectSum f => Sys2Proof.Machine.execVRejectSum f s
  | .vAccept f => Sys2Proof.Machine.execVAccept f s
  | .plDrop => Sys2Proof.Machine.execPlDrop s
  | .plKeep v => Sys2Proof.Machine.execPlKeep v s
  | .txAck => Sys2Proof.Machine.execTxAck s
  | .txNak => Sys2Proof.Machine.execTxNak s

end Sys2Proof.Machine
end

