-- ==== Sys2Proof/Machine/Fetch.lean ====
section
/-! DEFINITION. Which operation a state selects next (spec/42_protocol_sequencer.md R88, R100): what stands in the
place of fetching at a program counter is the pair (ST, IDX) and the next read result (spec/00_scope.md R8). And
the placing of one operation where the next step finds it. -/

namespace Sys2Proof.Machine

/-- The HOST word that the host's two inputs form (R57). -/
def hostWord (s : State) : HostWord := mkHost s.rst s.start

/-- The operation selected by ST and, where a read is outstanding, by the next element of the input stream
(R58, R59, R61, R62). The marker in BLK[0] is not checked again (R77). -/
def fetchBlock (s : State) : Option Instr :=
  match s.st with
  | .idle => none
  | .awaitingStart => s.rx.head?.map decodeAwaiting
  | .readingBlock => s.rx.head?.map decodeReading
  | .validating => some (decodeBlock (bufferFields s.blk))
  | .terminated => none

/-- The operation of the next step, none where the block waits: the host's inputs first, `rst` winning over all
(R30, R109), then the block's own selection. -/
def fetch (s : State) : Option Instr :=
  match decodeHost s.st (hostWord s) with
  | .ok i => some i
  | .error _ => fetchBlock s

/-- `s` with the block `f` held in BLK and the machine in Validating. -/
def holding (f : BlockFields) (s : State) : State :=
  { s with
    rst := false, st := .validating, idx := 9,
    blk := #v[Config.soh, f.seq, f.cmp, f.p0, f.p1, f.p2, f.p3, f.p4, f.cks] }

/-- `s` in AwaitingStart with this word as the next read result. -/
def offering (w : RxWord) (s : State) : State :=
  { s with rst := false, st := .awaitingStart, rx := w :: s.rx }

/-- A valid block with this payload byte 0, padding after it, and sequence number 0. -/
def blockOf (v : Byte) : BlockFields :=
  { seq := 0x00, cmp := 0xFF, p0 := v, p1 := 0x03, p2 := 0x03, p3 := 0x03, p4 := 0x03,
    cks := checksum v 0x03 0x03 0x03 0x03 }

/-- `s` with everything set that makes the next step run `i` (log entry 6). PL_DROP, PL_KEEP, TX_ACK and TX_NAK run
inside an operation (log entry 7): for them the operation is V_ACCEPT of a block with that payload byte, RX_EOT and
START. -/
def place (i : Instr) (s : State) : State :=
  match i with
  | .reset b => { s with rst := true, start := b }
  | .start => { s with rst := false, start := true, st := .idle }
  | .rxFail d => offering (failWord d) s
  | .rxEot => offering (byteWord Config.eot) s
  | .rxSoh => offering (byteWord Config.soh) s
  | .rxSkip d => offering (byteWord d) s
  | .rxBody d => { offering (byteWord d) s with st := .readingBlock, idx := 1, blk := s.blk.set 0 Config.soh }
  | .vRejectCmp f => holding f s
  | .vRejectSum f => holding f s
  | .vAccept f => holding f s
  | .plDrop => holding (blockOf Config.pad) s
  | .plKeep v => holding (blockOf v) s
  | .txAck => offering (byteWord Config.eot) s
  | .txNak => { s with rst := false, start := true, st := .idle }

end Sys2Proof.Machine
end

