-- ==== Sys2Proof/Machine/Step.lean ====
section
/-! DEFINITION. One step of the block: one transition of its state machine, as one atomic change of state
(spec/00_scope.md R7, spec/42_protocol_sequencer.md R88). -/

namespace Sys2Proof.Machine

/-- One step: the operation that the state selects; where none is enabled the block stays as it is (R88, R127;
log entry 4). -/
def step (s : State) : Host.Outcome State Fault Refusal :=
  match fetch s with
  | some i => exec i s
  | none => .next s

/-- `s` with the operation that a bare word of the opcode table stands for placed where the next step finds it
(log entry 6). -/
def State.withFetchWord (s : State) (nbits w : Nat) : State :=
  match decodeTableWord nbits w with
  | some i => place i s
  | none => s

end Sys2Proof.Machine
end

