-- ==== Sys2Proof/Machine/Ports.lean ====
section
/-! DEFINITION. The ports (spec/10_state.md R26 to R31): the outputs that a state and each port activity show, and
what one rising clock edge with given inputs does. Orders only; no number of clock cycles (R32). -/

namespace Sys2Proof.Machine

/-- `done`: 1 if and only if ST = Terminated (R26). -/
def done (s : State) : Bool := s.st == .terminated

/-- The output `state` (R26). -/
def stateOut (s : State) : StateCode := stateCode s.st

/-- The stream outputs in one cycle. `tx` is `some b` when `tx_valid` = 1 with `tx_data` = b, and `none` when
`tx_valid` = 0, where `tx_data` is unspecified and nobody may read it (U12); `pl` likewise. -/
structure StreamPins where
  /-- `rx_req` -/
  rxReq : Bool
  /-- `tx_valid` and `tx_data` -/
  tx : Option Byte
  /-- `pl_valid` and `pl_data` -/
  pl : Option Byte
deriving DecidableEq, Repr

/-- The stream outputs between two operations: `rx_req` is 1 while a read is outstanding (R26). -/
def restPins (s : State) : StreamPins := { rxReq := readsInput s.st, tx := none, pl := none }

/-- The stream outputs in the cycle of one port activity (R27, R28, R29). -/
def activityPins : PortEvent → StreamPins
  | .rx _ => { rxReq := true, tx := none, pl := none }
  | .tx b => { rxReq := false, tx := some b, pl := none }
  | .pl b => { rxReq := false, tx := none, pl := some b }

/-- The port activity of a step from `s` to `t`, in order: what `t`'s trace has beyond `s`'s (R31). -/
def activity (s t : State) : List PortEvent := t.trace.drop s.trace.length

/-- The byte a port activity writes to the transport. -/
def txByte? : PortEvent → Option Byte
  | .rx _ => none
  | .tx b => some b
  | .pl _ => none

/-- The byte a port activity appends to the Message. -/
def plByte? : PortEvent → Option Byte
  | .rx _ => none
  | .tx _ => none
  | .pl b => some b

/-- The read result a port activity consumes. -/
def rxWord? : PortEvent → Option RxWord
  | .rx w => some w
  | .tx _ => none
  | .pl _ => none

/-- The reads completed since reset, in order. -/
def readsDone (s : State) : List RxWord := s.trace.filterMap rxWord?

/-- The inputs at one rising edge of `clk` (R26). -/
structure InPins where
  rst : Bool
  start : Bool
  rxValid : Bool
  rxErr : Bool
  rxData : Byte
deriving DecidableEq, Repr

/-- `s` with these inputs presented to it: the host's levels, and the read result that `rx_valid` presents. -/
def drive (p : InPins) (s : State) : State :=
  { s with rst := p.rst, start := p.start, rx := if p.rxValid then [mkRx p.rxErr p.rxData] else [] }

/-- What the block does with the inputs of one rising edge (R27, R30; log entry 8). -/
def edge (p : InPins) (s : State) : Host.Outcome State Fault Refusal := step (drive p s)

end Sys2Proof.Machine
end

