-- ==== Sys2Proof/Safety.lean ====
section
/-! DEFINITION. The terms in which claims about the block are stated: how a run ends and how it waits
(spec/42_protocol_sequencer.md R94, spec/70_reset_and_hazards.md R127), the invariants of spec/10_state.md R23, the
shape of a session (R71, R96, R98), and the states reached under an arbitrary environment (R19). -/

namespace Sys2Proof.Machine

/-- A run is over exactly when ST = Terminated (R94). -/
def Final (s : State) : Prop := s.st = .terminated

/-- A read is outstanding and the stream supplies nothing: the block waits; a hang, not an end (R127). -/
def Waiting (s : State) : Prop := readsInput s.st = true ∧ s.rx = []

/-- The five elements of the block's state (R13) and the unconsumed input of `t`, each given. -/
def Holds (t : State) (st : St) (idx : Nat) (blk : Vector Byte 9) (msg txlog : List Byte) (rx : List RxWord) : Prop :=
  t.st = st ∧ t.idx.val = idx ∧ t.blk = blk ∧ t.msg = msg ∧ t.txlog = txlog ∧ t.rx = rx

/-- The invariants of R23 that speak of one state's own elements: items 1, 2, 3, 5, 6, 7, 9 and 11. -/
structure Inv (s : State) : Prop where
  /-- Item 1. -/
  idx_zero : s.st = .idle ∨ s.st = .awaitingStart ∨ s.st = .terminated → s.idx.val = 0
  /-- Item 2. -/
  reading : s.st = .readingBlock → 1 ≤ s.idx.val ∧ s.idx.val ≤ 8 ∧ s.blk[0] = 0x01
  /-- Item 3. -/
  validating : s.st = .validating → s.idx.val = 9 ∧ s.blk[0] = 0x01
  /-- Item 5, first half. -/
  idle_iff : s.st = .idle ↔ s.txlog = []
  /-- Item 5, second half. -/
  ready_nak : s.st ≠ .idle → s.txlog.head? = some 0x15
  /-- Item 6. -/
  tx_bytes : ∀ b ∈ s.txlog, b = 0x06 ∨ b = 0x15
  /-- Item 7. -/
  no_pad : ∀ b ∈ s.msg, b ≠ 0x03
  /-- Item 9. -/
  msg_bound : s.msg.length ≤ 5 * s.txlog.count 0x06
  /-- Item 11. -/
  idle_msg : s.st = .idle → s.msg = []

/-- R23 item 4: in ReadingBlock and Validating the last IDX port activities are the reads of BLK[0] to
BLK[IDX-1], in order. -/
def BufferHolds (s : State) : Prop :=
  s.st = .readingBlock ∨ s.st = .validating →
    ∃ before, s.trace = before ++ (s.blk.toList.take s.idx.val).map (fun b => PortEvent.rx (byteWord b))

/-- TXLOG and MSG are the records of the two output ports (R17, R18): the model's trace agrees with both. -/
def TraceAgrees (s : State) : Prop :=
  s.txlog = s.trace.filterMap txByte? ∧ s.msg = s.trace.filterMap plByte?

/-- A piece of the input stream: a skipped byte, or nine bytes that begin with 0x01 (R71). -/
inductive Segment where
  | stray (b : Byte)
  | block (f : BlockFields)
deriving DecidableEq, Repr

/-- A skipped byte is neither 0x01 nor 0x04 (R69). -/
def Segment.ok : Segment → Bool
  | .stray b => b != 0x01 && b != 0x04
  | .block _ => true

/-- The read results of a piece, in order (R71, R39). -/
def Segment.words : Segment → List RxWord
  | .stray b => [byteWord b]
  | .block f => (blockBytes f).map byteWord

/-- What answers a piece: nothing a stray, one byte a block, ACK if it is valid and NAK if not (R96). -/
def Segment.answer : Segment → List Byte
  | .stray _ => []
  | .block f => if blockValid f then [0x06] else [0x15]

/-- What a piece contributes to the Message (R98). -/
def Segment.kept : Segment → List Byte
  | .stray _ => []
  | .block f => if blockValid f then padFilter (payload f) else []

/-- What the reads since START, TXLOG and MSG of a session are made of (R71, R96, R98): the completed pieces in order;
TXLOG is the ready NAK and one answer per completed block; MSG is what the accepted blocks contribute; then the block in
progress, or the end, by 0x04 with one ACK or by a failure with none. -/
def SessionShape (s : State) : Prop :=
  (s.st = .idle ∧ readsDone s = [] ∧ s.txlog = [] ∧ s.msg = []) ∨
  ∃ segs : List Segment,
    (∀ g ∈ segs, g.ok = true) ∧
    s.msg = segs.flatMap Segment.kept ∧
    ((s.st = .awaitingStart ∧ readsDone s = segs.flatMap Segment.words ∧ s.txlog = 0x15 :: segs.flatMap Segment.answer) ∨
     ((s.st = .readingBlock ∨ s.st = .validating) ∧
        readsDone s = segs.flatMap Segment.words ++ (s.blk.toList.take s.idx.val).map byteWord ∧
        s.txlog = 0x15 :: segs.flatMap Segment.answer) ∨
     (s.st = .terminated ∧ readsDone s = segs.flatMap Segment.words ++ [byteWord 0x04] ∧
        s.txlog = 0x15 :: segs.flatMap Segment.answer ++ [0x06]) ∨
     (s.st = .terminated ∧
        (∃ (part : List Byte) (ignored : Byte), part.length ≤ 8 ∧ (part = [] ∨ part.head? = some 0x01) ∧
          readsDone s = segs.flatMap Segment.words ++ part.map byteWord ++ [failWord ignored]) ∧
        s.txlog = 0x15 :: segs.flatMap Segment.answer))

/-- Two states that differ at most in what BLK holds at IDX and beyond, bytes of which none has been stored in this
block, and in the free values drawn. -/
def AgreeButStale (s s' : State) : Prop :=
  s.st = s'.st ∧ s.idx = s'.idx ∧ s.msg = s'.msg ∧ s.txlog = s'.txlog ∧ s.rx = s'.rx ∧ s.rst = s'.rst ∧
  s.start = s'.start ∧ s.trace = s'.trace ∧
  ∀ (i : Nat) (h : i < 9), i < s.idx.val → s.blk[i] = s'.blk[i]

/-- `n` steps of the block, with the environment's inputs left as they are but for the reads. -/
inductive StepsTo : Nat → State → State → Prop where
  | zero (s : State) : StepsTo 0 s s
  | succ (n : Nat) (s u t : State) : Machine.step s = .next u → StepsTo n u t → StepsTo (n + 1) s t

/-- The states reached from reset when the environment may, between steps, set the host's inputs and the pending read
results to anything at all, also depending on the TXLOG so far (R19, R46). -/
inductive Reaches : State → Prop where
  | reset : Reaches State.reset
  | step (s t : State) : Reaches s → Machine.step s = .next t → Reaches t
  | environment (s : State) (rst start : Bool) (rx : List RxWord) :
      Reaches s → Reaches { s with rst := rst, start := start, rx := rx }

end Sys2Proof.Machine
end

