-- ==== Sys2Proof/Certificates/Slice0/Obligations.lean ====
section
/-! DEFINITION. The statements for the provers. Byte values are written as numerals, so that a statement says the
value and not the name of a constant. -/

open Sys2Proof Sys2Proof.Machine

/-! ### Stepping, decoding, encoding -/

/-- R88, R100: a step runs the operation that the host's inputs, ST and the next read result decode to, and where none
is enabled it changes nothing (that such a step answers the state unchanged, and does not stop, is log entry 4). -/
def Obligations.StepRunsTheDecodedOperation : Prop :=
  ∀ s : State,
    (s.rst = true → step s = exec (.reset s.start) s) ∧
    (s.rst = false → s.st = .idle → s.start = true → step s = exec .start s) ∧
    (∀ w rest i, s.rst = false → s.rx = w :: rest → decode s.st (.rxev w) = .ok i → step s = exec i s) ∧
    (s.rst = false → s.st = .validating → step s = exec (decodeBlock (bufferFields s.blk)) s) ∧
    (s.rst = false →
      s.st = .terminated ∨ (s.st = .idle ∧ s.start = false) ∨ (readsInput s.st = true ∧ s.rx = []) →
      step s = .next s)

/-- Words written out from the tables of 30_encoding.md and 95_test_vectors.md decode to their operations. -/
def Obligations.WrittenOutWordsDecode : Prop :=
  decode .idle (.host 0b01) = .ok .start ∧
  decode .readingBlock (.host 0b11) = .ok (.reset true) ∧
  decode .awaitingStart (.rxev 0b100000000) = .ok (.rxFail 0x00) ∧
  decode .awaitingStart (.rxev 0b000000100) = .ok .rxEot ∧
  decode .awaitingStart (.rxev 0b000000001) = .ok .rxSoh ∧
  decode .awaitingStart (.rxev 0b010000001) = .ok (.rxSkip 0x81) ∧
  decode .readingBlock (.rxev 0b000000100) = .ok (.rxBody 0x04) ∧
  decode .validating (.blk72 0x0101FE4142430303CC) =
    .ok (.vAccept ⟨0x01, 0xFE, 0x41, 0x42, 0x43, 0x03, 0x03, 0xCC⟩) ∧
  decode .validating (.blk72 0x0101FE4142430303CD) =
    .ok (.vRejectSum ⟨0x01, 0xFE, 0x41, 0x42, 0x43, 0x03, 0x03, 0xCD⟩) ∧
  decode .validating (.blk72 0x0102FC4849210303B8) =
    .ok (.vRejectCmp ⟨0x02, 0xFC, 0x48, 0x49, 0x21, 0x03, 0x03, 0xB8⟩) ∧
  decode .validating (.plb 0b00000011) = .ok .plDrop ∧
  decode .validating (.plb 0b01000001) = .ok (.plKeep 0x41) ∧
  decode .awaitingStart (.txb 0b00000110) = .ok .txAck ∧
  decode .idle (.txb 0b00010101) = .ok .txNak

/-- Every well-formed operation, in every value of ST its row applies in, is what its own word decodes to. -/
def Obligations.DecodeOfEncodeIsTheOperation : Prop :=
  ∀ (i : Instr) (st : St), i.wf = true → st ∈ i.modes → decode st (encode i) = .ok i

/-- Whatever word decodes to an operation is that operation's word, and the operation is well formed and its row
applies in that value of ST: no two words of one state share an operation and no bit of a word is dropped. -/
def Obligations.DecodedWordIsTheEncoding : Prop :=
  ∀ (i : Instr) (st : St) (c : Code), decode st c = .ok i → encode i = c ∧ i.wf = true ∧ st ∈ i.modes

/-- R57: the HOST word, every value in every state. -/
def Obligations.HostWordDecode : Prop :=
  (∀ st, decode st (.host 0b10) = .ok (.reset false) ∧ decode st (.host 0b11) = .ok (.reset true)) ∧
  decode .idle (.host 0b01) = .ok .start ∧
  (∀ st, st ≠ .idle → decode st (.host 0b01) = .error .startIgnored) ∧
  (∀ s : State, s.st ≠ .idle → exec .start s = .next s) ∧
  (∀ st, decode st (.host 0b00) = .error .hostQuiet)

/-- R58: the decode of a read result in AwaitingStart, total over all 512 words. -/
def Obligations.AwaitingStartDecode : Prop :=
  ∀ w : RxWord,
    (w &&& 0x100 = 0x100 → decode .awaitingStart (.rxev w) = .ok (.rxFail (w.extractLsb' 0 8))) ∧
    (w &&& 0x1FF = 0x004 → decode .awaitingStart (.rxev w) = .ok .rxEot) ∧
    (w &&& 0x1FF = 0x001 → decode .awaitingStart (.rxev w) = .ok .rxSoh) ∧
    (w &&& 0x100 = 0x000 → w ≠ 0x004 → w ≠ 0x001 →
      decode .awaitingStart (.rxev w) = .ok (.rxSkip (w.extractLsb' 0 8)))

/-- R59: the decode of a read result in ReadingBlock, total over all 512 words. -/
def Obligations.ReadingBlockDecode : Prop :=
  ∀ w : RxWord,
    (w &&& 0x100 = 0x100 → decode .readingBlock (.rxev w) = .ok (.rxFail (w.extractLsb' 0 8))) ∧
    (w &&& 0x100 = 0x000 → decode .readingBlock (.rxev w) = .ok (.rxBody (w.extractLsb' 0 8)))

/-- R61 and R80: the decode of a completed block, the complement first. -/
def Obligations.CompletedBlockDecode : Prop :=
  ∀ f : BlockFields,
    (f.cmp.toNat ≠ 255 - f.seq.toNat → decodeBlock f = .vRejectCmp f) ∧
    (f.cmp.toNat = 255 - f.seq.toNat →
      f.cks.toNat ≠ (f.p0.toNat + f.p1.toNat + f.p2.toNat + f.p3.toNat + f.p4.toNat) % 256 →
      decodeBlock f = .vRejectSum f) ∧
    (f.cmp.toNat = 255 - f.seq.toNat →
      f.cks.toNat = (f.p0.toNat + f.p1.toNat + f.p2.toNat + f.p3.toNat + f.p4.toNat) % 256 →
      decodeBlock f = .vAccept f)

/-- R53: the RXEV word: bit 8 is the failure flag, bits 7:0 the byte, ignored when the flag is set. -/
def Obligations.ReadWordLayout : Prop :=
  (∀ d : Byte, (byteWord d).toNat = d.toNat ∧ (failWord d).toNat = 256 + d.toNat) ∧
  ∀ w : RxWord, rxResult w = if w.getLsbD 8 then .fail else .byte (w.extractLsb' 0 8)

/-- R54: byte i of a packed block is bits [71-8i : 64-8i], and a BLK72 word is its marker and its fields. -/
def Obligations.BlockWordLayout : Prop :=
  (∀ (m : Byte) (f : BlockFields),
    (packBlk m f).extractLsb' 64 8 = m ∧ (packBlk m f).extractLsb' 56 8 = f.seq ∧
    (packBlk m f).extractLsb' 48 8 = f.cmp ∧ (packBlk m f).extractLsb' 40 8 = f.p0 ∧
    (packBlk m f).extractLsb' 32 8 = f.p1 ∧ (packBlk m f).extractLsb' 24 8 = f.p2 ∧
    (packBlk m f).extractLsb' 16 8 = f.p3 ∧ (packBlk m f).extractLsb' 8 8 = f.p4 ∧
    (packBlk m f).extractLsb' 0 8 = f.cks) ∧
  (∀ w : BlkWord, packBlk (w.extractLsb' 64 8) (wordFields w) = w)

/-- R62: in Idle, Validating and Terminated no read is outstanding, no read result is decoded and none is consumed: what
a step does there does not depend on the results offered. In Idle the only input looked at is `start`, in Terminated
none but `rst`. -/
def Obligations.NoReadDecodedElsewhere : Prop :=
  ∀ s : State, s.st = .idle ∨ s.st = .validating ∨ s.st = .terminated →
    (restPins s).rxReq = false ∧
    (∀ w, decode s.st (.rxev w) = .error .noReadOutstanding) ∧
    (∀ t rx', step s = .next t → t.rx = s.rx ∧ step { s with rx := rx' } = .next { t with rx := rx' }) ∧
    (s.st = .idle → s.rst = false → fetch s = if s.start then some .start else none) ∧
    (s.st = .terminated → s.rst = false → fetch s = none)

/-! ### The functions of the validator -/

/-- R74: the modulo-256 sum, over the five payload bytes and no other field. -/
def Obligations.ChecksumIsTheSumModulo256 : Prop :=
  (∀ p0 p1 p2 p3 p4 : Byte,
    (checksum p0 p1 p2 p3 p4).toNat = (p0.toNat + p1.toNat + p2.toNat + p3.toNat + p4.toNat) % 256) ∧
  ∀ blk : Vector Byte 9, payloadSum (bufferFields blk) = checksum blk[3] blk[4] blk[5] blk[6] blk[7]

/-- R79: the equivalent forms of the sum and of the complement check. -/
def Obligations.ArithmeticForms : Prop :=
  (∀ p0 p1 p2 p3 p4 : Byte,
    checksum p0 p1 p2 p3 p4 = ((((0 + p0) + p1) + p2) + p3) + p4 ∧
    checksum p0 p1 p2 p3 p4 =
      (p0.setWidth 11 + p1.setWidth 11 + p2.setWidth 11 + p3.setWidth 11 + p4.setWidth 11).extractLsb' 0 8 ∧
    checksum p0 p1 p2 p3 p4 = checksum p1 p0 p2 p3 p4 ∧ checksum p0 p1 p2 p3 p4 = checksum p1 p2 p3 p4 p0) ∧
  (∀ n : Byte, 255 - n.toNat = (~~~n).toNat) ∧
  (∀ f : BlockFields,
    (complementOK f = true ↔ f.seq ^^^ f.cmp = 0xFF) ∧
    (complementOK f = true ↔ f.seq.toNat + f.cmp.toNat = 255) ∧
    (complementOK f = true ↔ (f.seq.toNat + f.cmp.toNat) % 256 = 255)) ∧
  checksum 0x00 0x00 0x00 0x00 0x00 = 0x00 ∧ checksum 0xFF 0xFF 0xFF 0xFF 0xFF = 0xFB ∧
  checksum 0x80 0x80 0x00 0x00 0x00 = 0x00

/-- R75: the structural check, which for each sequence number exactly one complement passes. -/
def Obligations.OneComplementPasses : Prop :=
  (∀ blk : Vector Byte 9, complementOK (bufferFields blk) = true ↔ blk[2].toNat = 255 - blk[1].toNat) ∧
  ∀ (f : BlockFields), ∃ c : Byte, ∀ c' : Byte, complementOK { f with cmp := c' } = true ↔ c' = c

/-- R76, R77: the integrity check, and that a block is valid iff its complement and its checksum are right; the marker is
not checked again. -/
def Obligations.BlockValidIff : Prop :=
  (∀ blk : Vector Byte 9, checksumOK (bufferFields blk) = true ↔
    blk[8].toNat = (blk[3].toNat + blk[4].toNat + blk[5].toNat + blk[6].toNat + blk[7].toNat) % 256) ∧
  (∀ f : BlockFields, blockValid f = true ↔
    f.cmp.toNat = 255 - f.seq.toNat ∧
    f.cks.toNat = (f.p0.toNat + f.p1.toNat + f.p2.toNat + f.p3.toNat + f.p4.toNat) % 256) ∧
  ∀ (blk : Vector Byte 9) (b : Byte), blockValid (bufferFields (blk.set 0 b)) = blockValid (bufferFields blk)

/-- R78: the filter drops every 0x03, wherever it stands, and keeps the rest in order; at most five bytes remain. -/
def Obligations.PadFilterDropsEveryPad : Prop :=
  (∀ f : BlockFields, padFilter (payload f) = (payload f).filter (· ≠ 0x03) ∧ (padFilter (payload f)).length ≤ 5) ∧
  (∀ f : BlockFields, ∀ b, b ∈ padFilter (payload f) ↔ b ∈ payload f ∧ b ≠ 0x03) ∧
  padFilter [0x03, 0x41, 0x03, 0x42, 0x03] = [0x41, 0x42]

/-- R85: for every block one of the three outcomes is decoded, and of the three it alone is well formed, so exactly one
holds; the outcome depends on BLK[1] to BLK[8] only; the step from Validating always exists, and without `rst` it is the
outcome decoded from BLK. -/
def Obligations.ExactlyOneOutcome : Prop :=
  (∀ f : BlockFields, decodeBlock f = .vRejectCmp f ∨ decodeBlock f = .vRejectSum f ∨ decodeBlock f = .vAccept f) ∧
  (∀ (f : BlockFields) (i : Instr), i = .vRejectCmp f ∨ i = .vRejectSum f ∨ i = .vAccept f →
    (i.wf = true ↔ decodeBlock f = i)) ∧
  (∀ s s' : State, s.st = .validating → s'.st = .validating → s.rst = false → s'.rst = false →
    (∀ (i : Nat) (h : i < 9), 1 ≤ i → s.blk[i] = s'.blk[i]) → fetch s = fetch s') ∧
  (∀ s : State, s.st = .validating →
    (∃ t, step s = .next t) ∧ (s.rst = false → fetch s = some (decodeBlock (bufferFields s.blk))))

/-! ### Each operation: its word, its new state and everything it leaves alone -/

/-- R68. -/
def Obligations.RxSohStoresTheMarker : Prop :=
  decode .awaitingStart (.rxev 0x001) = .ok .rxSoh ∧
  ∀ (s : State) rest, s.st = .awaitingStart → s.rx = 0x001 :: rest →
    ∃ t, exec .rxSoh s = .next t ∧ Holds t .readingBlock 1 (s.blk.set 0 0x01) s.msg s.txlog rest

/-- R69. -/
def Obligations.RxSkipChangesNothing : Prop :=
  ∀ (s : State) (d : Byte) rest, s.st = .awaitingStart → d ≠ 0x01 → d ≠ 0x04 → s.rx = byteWord d :: rest →
    decode .awaitingStart (.rxev (byteWord d)) = .ok (.rxSkip d) ∧
    ∃ t, exec (.rxSkip d) s = .next t ∧ Holds t .awaitingStart s.idx.val s.blk s.msg s.txlog rest

/-- R70, for IDX 1 to 8. -/
def Obligations.RxBodyStoresOneByte : Prop :=
  ∀ (s : State) (d : Byte) rest (h : s.idx.val < 9), s.st = .readingBlock → 1 ≤ s.idx.val →
    s.rx = byteWord d :: rest →
    decode .readingBlock (.rxev (byteWord d)) = .ok (.rxBody d) ∧
    ∃ t, exec (.rxBody d) s = .next t ∧
      Holds t (if s.idx.val = 8 then .validating else .readingBlock) (s.idx.val + 1) (s.blk.set s.idx.val d h)
        s.msg s.txlog rest

/-- R82: the checksum is not looked at; the condition is on `seq` and `cmp` alone. -/
def Obligations.VRejectCmpAnswersNak : Prop :=
  ∀ (s : State) (f : BlockFields), s.st = .validating → bufferFields s.blk = f → f.cmp.toNat ≠ 255 - f.seq.toNat →
    decode .validating (.blk72 (packBlk 0x01 f)) = .ok (.vRejectCmp f) ∧
    ∃ t, exec (.vRejectCmp f) s = .next t ∧ Holds t .awaitingStart 0 s.blk s.msg (s.txlog ++ [0x15]) s.rx

/-- R83. -/
def Obligations.VRejectSumAnswersNak : Prop :=
  ∀ (s : State) (f : BlockFields), s.st = .validating → bufferFields s.blk = f → f.cmp.toNat = 255 - f.seq.toNat →
    f.cks.toNat ≠ (f.p0.toNat + f.p1.toNat + f.p2.toNat + f.p3.toNat + f.p4.toNat) % 256 →
    decode .validating (.blk72 (packBlk 0x01 f)) = .ok (.vRejectSum f) ∧
    ∃ t, exec (.vRejectSum f) s = .next t ∧ Holds t .awaitingStart 0 s.blk s.msg (s.txlog ++ [0x15]) s.rx

/-- R84: the filtered payload is appended, in payload order, and then ACK is written. -/
def Obligations.VAcceptAppendsThenAcks : Prop :=
  ∀ (s : State) (f : BlockFields), s.st = .validating → bufferFields s.blk = f → f.cmp.toNat = 255 - f.seq.toNat →
    f.cks.toNat = (f.p0.toNat + f.p1.toNat + f.p2.toNat + f.p3.toNat + f.p4.toNat) % 256 →
    decode .validating (.blk72 (packBlk 0x01 f)) = .ok (.vAccept f) ∧
    ∃ t, exec (.vAccept f) s = .next t ∧
      Holds t .awaitingStart 0 s.blk (s.msg ++ [f.p0, f.p1, f.p2, f.p3, f.p4].filter (· ≠ 0x03)) (s.txlog ++ [0x06])
        s.rx ∧
      activity s t = ([f.p0, f.p1, f.p2, f.p3, f.p4].filter (· ≠ 0x03)).map PortEvent.pl ++ [PortEvent.tx 0x06]

/-- R89: the ready NAK; in a state that meets the invariant TXLOG becomes `15` and MSG stays empty; outside Idle START
does nothing. -/
def Obligations.StartSendsTheReadyNak : Prop :=
  decode .idle (.host 0b01) = .ok .start ∧
  (∀ s : State, s.st = .idle →
    ∃ t, exec .start s = .next t ∧ Holds t .awaitingStart s.idx.val s.blk s.msg (s.txlog ++ [0x15]) s.rx ∧
      (Inv s → t.idx.val = 0 ∧ t.txlog = [0x15] ∧ t.msg = [])) ∧
  ∀ s : State, s.st ≠ .idle → exec .start s = .next s

/-- R91: one ACK, and no further reads are attempted. -/
def Obligations.RxEotAcksAndTerminates : Prop :=
  decode .awaitingStart (.rxev 0x004) = .ok .rxEot ∧
  ∀ (s : State) rest, s.st = .awaitingStart → s.rx = 0x004 :: rest →
    ∃ t, exec .rxEot s = .next t ∧ Holds t .terminated s.idx.val s.blk s.msg (s.txlog ++ [0x06]) rest ∧
      (restPins t).rxReq = false ∧ (t.rst = false → fetch t = none)

/-- R92: in both reading states, at any IDX, whatever the `data` field of the failure holds; no byte is sent and no
further reads are attempted. -/
def Obligations.RxFailTerminatesSilently : Prop :=
  ∀ (s : State) (d : Byte) rest, s.st = .awaitingStart ∨ s.st = .readingBlock → s.rx = failWord d :: rest →
    decode s.st (.rxev (failWord d)) = .ok (.rxFail d) ∧
    ∃ t, exec (.rxFail d) s = .next t ∧ Holds t .terminated 0 s.blk s.msg s.txlog rest ∧
      (restPins t).rxReq = false ∧ (t.rst = false → fetch t = none)

/-- R119: RESET in every state; BLK is left unspecified, so nothing is said of it. -/
def Obligations.ResetFromAnyState : Prop :=
  ∀ (s : State) (b : Bool),
    decode s.st (.host (mkHost true b)) = .ok (.reset b) ∧
    ∃ t, exec (.reset b) s = .next t ∧ t.st = .idle ∧ t.idx.val = 0 ∧ t.msg = [] ∧ t.txlog = [] ∧ t.rx = s.rx ∧
      activity s t = [] ∧ stateOut t = 0b000 ∧ done t = false ∧ restPins t = ⟨false, none, none⟩ ∧
      (s.rst = true → step s = exec (.reset s.start) s)

/-- R56: a payload byte of an accepted block is dropped if its value is 0x03 and appended to the Message otherwise, on its
value alone. -/
def Obligations.PayloadByteDroppedOrKept : Prop :=
  decodePlb 0x03 = .plDrop ∧ (∀ v : Byte, v ≠ 0x03 → decodePlb v = .plKeep v) ∧
  ∀ s : State, s.st = .validating →
    (∃ t, exec .plDrop s = .next t ∧ Holds t .validating s.idx.val s.blk s.msg s.txlog s.rx) ∧
    ∀ v : Byte, v ≠ 0x03 →
      ∃ t, exec (.plKeep v) s = .next t ∧ Holds t .validating s.idx.val s.blk (s.msg ++ [v]) s.txlog s.rx

/-- R55, R60: writing ACK and NAK, in the states in which an operation writes them. -/
def Obligations.AckAndNakAreWritten : Prop :=
  ∀ s : State,
    (s.st = .validating ∨ s.st = .awaitingStart →
      ∃ t, exec .txAck s = .next t ∧ Holds t s.st s.idx.val s.blk s.msg (s.txlog ++ [0x06]) s.rx) ∧
    (s.st = .idle ∨ s.st = .validating →
      ∃ t, exec .txNak s = .next t ∧ Holds t s.st s.idx.val s.blk s.msg (s.txlog ++ [0x15]) s.rx)

/-- R84: V_ACCEPT is the padding filter's operation on each payload byte in turn, then TX_ACK, then IDX <- 0 and
ST <- AwaitingStart. -/
def Obligations.VAcceptRunsThePayloadOperations : Prop :=
  ∀ (s : State) (f : BlockFields), s.st = .validating → bufferFields s.blk = f → blockValid f = true →
    ∃ s1 s2 s3 s4 s5 s6,
      exec (decodePlb f.p0) s = .next s1 ∧ exec (decodePlb f.p1) s1 = .next s2 ∧
      exec (decodePlb f.p2) s2 = .next s3 ∧ exec (decodePlb f.p3) s3 = .next s4 ∧
      exec (decodePlb f.p4) s4 = .next s5 ∧ exec .txAck s5 = .next s6 ∧
      exec (.vAccept f) s = .next { s6 with idx := 0, st := .awaitingStart }

/-- R60, R55: what each operation writes to the transport when it is the one selected: NAK by START, V_REJECT_CMP and
V_REJECT_SUM, ACK by V_ACCEPT and RX_EOT, one byte each, and nothing by any other (RESET begins TXLOG anew). -/
def Obligations.WhoWritesToTheTransport : Prop :=
  ∀ (i : Instr) (s t : State), fetch s = some i → exec i s = .next t →
    match i with
    | .start => t.txlog = s.txlog ++ [0x15]
    | .vRejectCmp _ => t.txlog = s.txlog ++ [0x15]
    | .vRejectSum _ => t.txlog = s.txlog ++ [0x15]
    | .vAccept _ => t.txlog = s.txlog ++ [0x06]
    | .rxEot => t.txlog = s.txlog ++ [0x06]
    | .reset _ => t.txlog = [] ∧ activity s t = []
    | _ => t.txlog = s.txlog

/-- R22: which operations write each element; an operation not listed for an element does not touch it. In a state that
meets the invariant, RX_BODY never writes BLK[0]. RESET leaves BLK unspecified. PL_KEEP, TX_ACK and TX_NAK are the
parts of the operations that append and write (log entry 7). -/
def Obligations.WhoWritesEachElement : Prop :=
  ∀ (i : Instr) (s t : State), Inv s → exec i s = .next t →
    (t.st = s.st ∨ (∃ b, i = .reset b) ∨ i = .start ∨ i = .rxSoh ∨ (∃ d, i = .rxBody d ∧ s.idx.val = 8) ∨ i = .rxEot ∨
      (∃ d, i = .rxFail d) ∨ (∃ f, i = .vRejectCmp f) ∨ (∃ f, i = .vRejectSum f) ∨ (∃ f, i = .vAccept f)) ∧
    (t.idx = s.idx ∨ (∃ b, i = .reset b) ∨ i = .rxSoh ∨ (∃ d, i = .rxBody d) ∨ (∃ d, i = .rxFail d) ∨
      (∃ f, i = .vRejectCmp f) ∨ (∃ f, i = .vRejectSum f) ∨ (∃ f, i = .vAccept f)) ∧
    (t.blk[0] = s.blk[0] ∨ (∃ b, i = .reset b) ∨ i = .rxSoh) ∧
    (∀ (k : Nat) (h : k < 9), 1 ≤ k → t.blk[k] = s.blk[k] ∨ (∃ b, i = .reset b) ∨ ∃ d, i = .rxBody d ∧ s.idx.val = k) ∧
    (t.msg = s.msg ∨ (∃ b, i = .reset b) ∨ (∃ f, i = .vAccept f) ∨ ∃ v, i = .plKeep v) ∧
    (t.txlog = s.txlog ∨ (∃ b, i = .reset b) ∨ i = .start ∨ i = .rxEot ∨ (∃ f, i = .vRejectCmp f) ∨
      (∃ f, i = .vRejectSum f) ∨ (∃ f, i = .vAccept f) ∨ i = .txAck ∨ i = .txNak) ∧
    (t.rx = s.rx ∨ i = .rxSoh ∨ (∃ d, i = .rxSkip d) ∨ (∃ d, i = .rxBody d) ∨ i = .rxEot ∨ ∃ d, i = .rxFail d) ∧
    t.rst = s.rst ∧ t.start = s.start ∧
    ((∃ more, t.trace = s.trace ++ more) ∨ ∃ b, i = .reset b) ∧ (t.draws = s.draws ∨ ∃ b, i = .reset b)

/-- R88: an operation in a state its row does not apply in has no transition: it does nothing and consumes nothing. So
also an operation on a read result that is not the next element of the stream; a validation outcome whose block is not the
one BLK holds, or whose condition is false of it (R82, R83, R84; log entry 10); RX_SKIP with 0x01 or 0x04 (R69); PL_KEEP
with 0x03 (R56); and, in a state that no run reaches, RX_BODY at IDX 9 (R15; log entry 5). That `exec` then answers the
state, and does not stop, is log entry 4. -/
def Obligations.NotEnabledDoesNothing : Prop :=
  (∀ (i : Instr) (s : State), s.st ∉ i.modes → exec i s = .next s) ∧
  (∀ (i : Instr) (w : RxWord) (s : State), encode i = .rxev w → s.rx.head? ≠ some w → exec i s = .next s) ∧
  (∀ (f : BlockFields) (s : State), bufferFields s.blk ≠ f →
    exec (.vRejectCmp f) s = .next s ∧ exec (.vRejectSum f) s = .next s ∧ exec (.vAccept f) s = .next s) ∧
  (∀ (f : BlockFields) (s : State),
    (f.cmp.toNat = 255 - f.seq.toNat → exec (.vRejectCmp f) s = .next s) ∧
    (f.cmp.toNat ≠ 255 - f.seq.toNat → exec (.vRejectSum f) s = .next s ∧ exec (.vAccept f) s = .next s) ∧
    (f.cks.toNat = (f.p0.toNat + f.p1.toNat + f.p2.toNat + f.p3.toNat + f.p4.toNat) % 256 →
      exec (.vRejectSum f) s = .next s) ∧
    (f.cks.toNat ≠ (f.p0.toNat + f.p1.toNat + f.p2.toNat + f.p3.toNat + f.p4.toNat) % 256 →
      exec (.vAccept f) s = .next s)) ∧
  (∀ s : State, exec (.rxSkip 0x01) s = .next s ∧ exec (.rxSkip 0x04) s = .next s ∧ exec (.plKeep 0x03) s = .next s) ∧
  (∀ (d : Byte) (s : State), s.idx.val = 9 → exec (.rxBody d) s = .next s)

/-- R102, R103: each error class is handled by one operation, wholly. -/
def Obligations.ErrorClassesAreHandled : Prop :=
  (∀ (s : State) (e : ErrorClass), e = .structural ∨ e = .integrity →
    Holds (takeError e s) .awaitingStart 0 s.blk s.msg (s.txlog ++ [0x15]) s.rx) ∧
  (∀ s : State, takeError .desync s = s) ∧
  (∀ s : State, Holds (takeError .transport s) .terminated 0 s.blk s.msg s.txlog s.rx) ∧
  (∀ (s : State) f, holdsBlock f s = true → complementOK f = false →
    exec (.vRejectCmp f) s = .next (takeError .structural s)) ∧
  (∀ (s : State) f, holdsBlock f s = true → complementOK f = true → checksumOK f = false →
    exec (.vRejectSum f) s = .next (takeError .integrity s)) ∧
  (∀ (s t : State) (d : Byte), s.st = .awaitingStart → d ≠ 0x01 → d ≠ 0x04 → rxRead s = some (byteWord d, t) →
    exec (.rxSkip d) s = .next (takeError .desync t)) ∧
  (∀ (s t : State) (d : Byte), rxRead s = some (failWord d, t) → exec (.rxFail d) s = .next (takeError .transport t))

/-- R53, R109: a failed read carries no byte: two failures that differ in their `data` field lead to the same state. -/
def Obligations.FailureCarriesNoByte : Prop :=
  ∀ (s : State) (d d' : Byte) rest t t',
    step { s with rx := failWord d :: rest } = .next t → step { s with rx := failWord d' :: rest } = .next t' →
    t.st = t'.st ∧ t.idx = t'.idx ∧ t.blk = t'.blk ∧ t.msg = t'.msg ∧ t.txlog = t'.txlog ∧
    t.rx.length = t'.rx.length

/-! ### The whole machine -/

/-- R81, R72, R80: a step from Validating writes exactly one byte, and leaves the machine in AwaitingStart with IDX 0
and with nothing read, the same whatever the verdict; the byte is ACK if and only if the block is valid, so a block
wrong in both fields is answered by one NAK. -/
def Obligations.ValidatingAnswersOnceAndRearms : Prop :=
  ∀ s : State, s.st = .validating → s.rst = false →
    ∃ t, step s = .next t ∧ t.st = .awaitingStart ∧ t.idx.val = 0 ∧ t.blk = s.blk ∧ t.rx = s.rx ∧
      t.txlog = s.txlog ++ [if blockValid (bufferFields s.blk) then 0x06 else 0x15] ∧
      t.msg = s.msg ++ (if blockValid (bufferFields s.blk) then padFilter (payload (bufferFields s.blk)) else [])

/-- R93: in Terminated `done` is 1, `rx_req` is 0, no operation but RESET is selected, nothing is consumed and `start`
does nothing; only RESET leaves it, and clears MSG. That a step with nothing selected answers the state unchanged is the
model's choice, log entry 4. -/
def Obligations.TerminatedIsLeftOnlyByReset : Prop :=
  ∀ s : State, s.st = .terminated →
    done s = true ∧ (restPins s).rxReq = false ∧
    (s.rst = false → fetch s = none ∧ step s = .next s) ∧
    (∀ (i : Instr) t, exec i s = .next t → t ≠ s → ∃ b, i = .reset b) ∧
    (s.rst = true → ∃ t, step s = .next t ∧ t.st = .idle ∧ t.msg = [])

/-- R90: in Idle nothing is read or written and the only enabled operation is START (and RESET, in every state). That a
step with nothing selected answers the state unchanged is the model's choice, log entry 4. -/
def Obligations.IdleWaitsForStart : Prop :=
  ∀ s : State, s.st = .idle → s.rst = false →
    (restPins s).rxReq = false ∧ (s.start = false → fetch s = none ∧ step s = .next s) ∧
    (s.start = true → fetch s = some .start)

/-- R127: while the stream supplies nothing the block waits in its present state with `rx_req` = 1 and `done` = 0. That
the waiting step answers the state unchanged is log entry 4. -/
def Obligations.ReadWaitsForEver : Prop :=
  ∀ s : State, Waiting s → s.rst = false →
    fetch s = none ∧ step s = .next s ∧ (restPins s).rxReq = true ∧ done s = false ∧ ¬ Final s

/-- R64: nothing traps: every state has a next state, and every operation in every state. -/
def Obligations.NothingTraps : Prop :=
  (∀ s : State, ∃ t, step s = .next t) ∧ ∀ (i : Instr) (s : State), ∃ t, exec i s = .next t

/-- R30: the binding of the host's events at a rising edge; that one edge makes at most one transaction is the model's
choice, log entry 8. -/
def Obligations.HostEventsAtAnEdge : Prop :=
  (∀ (p : InPins) (s : State), p.rst = true → edge p s = exec (.reset p.start) (drive p s)) ∧
  (∀ (p : InPins) (s : State), p.rst = false → p.start = true → s.st = .idle → edge p s = exec .start (drive p s)) ∧
  (∀ (p : InPins) (s t : State), s.st ≠ .idle → edge { p with start := false } s = .next t →
    edge { p with start := true } s = .next { t with start := true }) ∧
  (∀ (p : InPins) (s : State), p.rst = true → p.rxValid = true →
    ∃ t, edge p s = .next t ∧ t.st = .idle ∧ t.rx = [mkRx p.rxErr p.rxData])

/-- R27: the binding of RxRead at a rising edge: a read completes when `rx_req`, `rx_valid` and not `rst`; its result is
`Fail` if `rx_err`, whatever `rx_data` holds, else the byte; offered without `rx_req` it is not consumed; without
`rx_valid` the block waits. The form of an edge is log entry 8, that of a waiting step log entry 4. -/
def Obligations.ReadAtAnEdge : Prop :=
  ∀ (p : InPins) (s : State), Inv s → p.rst = false →
    ((restPins s).rxReq = true → p.rxValid = true →
      ∃ t, edge p s = .next t ∧ t.rx = [] ∧ (activity s t).head? = some (.rx (mkRx p.rxErr p.rxData))) ∧
    ((restPins s).rxReq = true → p.rxValid = false → edge p s = .next (drive p s)) ∧
    ((restPins s).rxReq = false → p.rxValid = true → ∃ t, edge p s = .next t ∧ t.rx = [mkRx p.rxErr p.rxData]) ∧
    (p.rxErr = true → rxResult (mkRx p.rxErr p.rxData) = .fail) ∧
    (p.rxErr = false → rxResult (mkRx p.rxErr p.rxData) = .byte p.rxData)

/-- R26: the outputs of a state: the codes, `done`, and when `rx_req` can be 1. -/
def Obligations.OutputsOfAState : Prop :=
  (∀ s : State, done s = true ↔ s.st = .terminated) ∧
  (∀ s : State, stateOut s ≠ 0b101 ∧ stateOut s ≠ 0b110 ∧ stateOut s ≠ 0b111) ∧
  (∀ s s' : State, stateOut s = stateOut s' → s.st = s'.st) ∧
  (∀ s : State, (restPins s).rxReq = true ↔ s.st = .awaitingStart ∨ s.st = .readingBlock) ∧
  (∀ b, (activityPins (.tx b)).rxReq = false ∧ (activityPins (.pl b)).rxReq = false) ∧
  stateCode .idle = 0b000 ∧ stateCode .awaitingStart = 0b001 ∧ stateCode .readingBlock = 0b010 ∧
  stateCode .validating = 0b011 ∧ stateCode .terminated = 0b100

/-- R24: the state and the outputs after reset. BLK is unspecified there; its value in the model is log entry 2. -/
def Obligations.ResetState : Prop :=
  State.reset.st = .idle ∧ State.reset.idx.val = 0 ∧ State.reset.msg = [] ∧ State.reset.txlog = [] ∧
  restPins State.reset = ⟨false, none, none⟩ ∧ done State.reset = false ∧ stateOut State.reset = 0b000

/-- R35, R45: a step consumes at most the next element of the stream, and depends on no element after it: the block
cannot peek, and reads in arrival order. -/
def Obligations.NoReadAhead : Prop :=
  (∀ s t : State, step s = .next t → t.rx = s.rx ∨ ∃ w, s.rx = w :: t.rx) ∧
  (∀ (s : State) w rest rest' t, step { s with rx := w :: rest } = .next t →
    ∃ t', step { s with rx := w :: rest' } = .next t' ∧ { t with rx := [] } = { t' with rx := [] } ∧
      (t.rx = rest ∧ t'.rx = rest' ∨ t.rx = w :: rest ∧ t'.rx = w :: rest'))

/-- R45, R29, R31: the port activity of a step: at most one read, then the appends, then at most one write. So every
write is complete before the next read begins, and the appends of an accepted block before its ACK. -/
def Obligations.OrderOfPortActivity : Prop :=
  ∀ s t : State, s.rst = false → step s = .next t →
    ∃ reads appends writes,
      t.trace = s.trace ++ reads.map PortEvent.rx ++ appends.map PortEvent.pl ++ writes.map PortEvent.tx ∧
      reads.length ≤ 1 ∧ appends.length ≤ 5 ∧ writes.length ≤ 1 ∧
      s.rx = reads ++ t.rx ∧ t.msg = s.msg ++ appends ∧ t.txlog = s.txlog ++ writes

/-- R23 item 8: MSG and TXLOG only grow, until reset. -/
def Obligations.HistoriesOnlyGrow : Prop :=
  ∀ s t : State, s.rst = false → step s = .next t →
    (∃ m, t.msg = s.msg ++ m) ∧ ∃ w, t.txlog = s.txlog ++ w

/-- R23 items 1, 2, 3, 5, 6, 7, 9 and 11: every step keeps them. -/
def Obligations.StepKeepsTheInvariants : Prop :=
  ∀ s t : State, Inv s → step s = .next t → Inv t

/-- The state after reset meets the invariants of R23 and the other three that steps keep. -/
def Obligations.ResetMeetsTheInvariants : Prop :=
  Inv State.reset ∧ BufferHolds State.reset ∧ TraceAgrees State.reset ∧ SessionShape State.reset

/-- R23 item 4: every step keeps that BLK[0] to BLK[IDX-1] hold the bytes read since the last RX_SOH, in order, with no
other port activity in between. -/
def Obligations.StepKeepsTheBuffer : Prop :=
  ∀ s t : State, Inv s → BufferHolds s → step s = .next t → BufferHolds t

/-- R17, R18: every step keeps that TXLOG and MSG are the records of the two output ports. -/
def Obligations.StepKeepsTheRecords : Prop :=
  ∀ s t : State, TraceAgrees s → step s = .next t → TraceAgrees t

/-- R96, R98, R71: every step keeps the shape of a session: the stream read so far is cut into strays and groups of nine
that begin with 0x01; TXLOG is 0x15, one answer per completed block, and a last 0x06 exactly when the session ended by
0x04; MSG is the filtered payloads of the accepted blocks in order. -/
def Obligations.StepKeepsTheSessionShape : Prop :=
  ∀ s t : State, Inv s → SessionShape s → step s = .next t → SessionShape t

/-- The invariants hold in every state reached from reset under any environment whatsoever. -/
def Obligations.ReachableStatesAreGood : Prop :=
  ∀ s : State, Reaches s → Inv s ∧ BufferHolds s ∧ TraceAgrees s ∧ SessionShape s

/-- R23 item 4, R24: bytes of BLK that have not been stored in this block are never read, so the unspecified contents of
BLK after reset are not either: two states that differ in such bytes only lead to two such states. -/
def Obligations.StaleBytesAreNeverRead : Prop :=
  ∀ s s' t : State, Inv s → Inv s' → AgreeButStale s s' → step s = .next t →
    ∃ t', step s' = .next t' ∧ AgreeButStale t t'

/-- R71, R96: any nine bytes that begin with 0x01, read from AwaitingStart, take the machine in ten steps back to
AwaitingStart, whatever their values: all nine consumed, one answer written, the filtered payload appended exactly if the
block is valid. It holds of a block already received before and of any sequence number (R132). -/
def Obligations.AnyBlockIsAnsweredInTenSteps : Prop :=
  ∀ (s : State) (f : BlockFields) rest, s.st = .awaitingStart → s.rst = false →
    s.rx = (blockBytes f).map byteWord ++ rest →
    ∃ t, StepsTo 10 s t ∧ t.st = .awaitingStart ∧ t.idx.val = 0 ∧ t.rx = rest ∧
      t.msg = s.msg ++ (if blockValid f then padFilter (payload f) else []) ∧
      t.txlog = s.txlog ++ [if blockValid f then 0x06 else 0x15]

/-- R112, R92: nothing tells how a session ended: the outputs after RX_EOT and after RX_FAIL are the same. -/
def Obligations.EndsLookTheSame : Prop :=
  ∀ (s s' t t' : State) (d : Byte), s.st = .awaitingStart → s.rx.head? = some (byteWord 0x04) →
    readsInput s'.st = true → s'.rx.head? = some (failWord d) →
    exec .rxEot s = .next t → exec (.rxFail d) s' = .next t' →
    done t = true ∧ done t' = true ∧ stateOut t = stateOut t' ∧ restPins t = restPins t'
end

