-- ==== Sys2Proof/Laws/State.lean ====
section
/-! SUPPORT. One lemma per field and update of State, true by rfl, so that no proof unfolds a record update. -/

namespace Sys2Proof.Machine

section consume
variable (w : RxWord) (rest : List RxWord) (s : State)
@[simp] theorem consume_st : (consume w rest s).st = s.st := rfl
@[simp] theorem consume_idx : (consume w rest s).idx = s.idx := rfl
@[simp] theorem consume_blk : (consume w rest s).blk = s.blk := rfl
@[simp] theorem consume_msg : (consume w rest s).msg = s.msg := rfl
@[simp] theorem consume_txlog : (consume w rest s).txlog = s.txlog := rfl
@[simp] theorem consume_rx : (consume w rest s).rx = rest := rfl
@[simp] theorem consume_rst : (consume w rest s).rst = s.rst := rfl
@[simp] theorem consume_start : (consume w rest s).start = s.start := rfl
@[simp] theorem consume_trace : (consume w rest s).trace = s.trace ++ [.rx w] := rfl
@[simp] theorem consume_draws : (consume w rest s).draws = s.draws := rfl
end consume

section txWrite
variable (v : Byte) (s : State)
@[simp] theorem txWrite_st : (txWrite v s).st = s.st := rfl
@[simp] theorem txWrite_idx : (txWrite v s).idx = s.idx := rfl
@[simp] theorem txWrite_blk : (txWrite v s).blk = s.blk := rfl
@[simp] theorem txWrite_msg : (txWrite v s).msg = s.msg := rfl
@[simp] theorem txWrite_txlog : (txWrite v s).txlog = s.txlog ++ [v] := rfl
@[simp] theorem txWrite_rx : (txWrite v s).rx = s.rx := rfl
@[simp] theorem txWrite_rst : (txWrite v s).rst = s.rst := rfl
@[simp] theorem txWrite_start : (txWrite v s).start = s.start := rfl
@[simp] theorem txWrite_trace : (txWrite v s).trace = s.trace ++ [.tx v] := rfl
@[simp] theorem txWrite_draws : (txWrite v s).draws = s.draws := rfl
end txWrite

section msgAppend
variable (v : Byte) (s : State)
@[simp] theorem msgAppend_st : (msgAppend v s).st = s.st := rfl
@[simp] theorem msgAppend_idx : (msgAppend v s).idx = s.idx := rfl
@[simp] theorem msgAppend_blk : (msgAppend v s).blk = s.blk := rfl
@[simp] theorem msgAppend_msg : (msgAppend v s).msg = s.msg ++ [v] := rfl
@[simp] theorem msgAppend_txlog : (msgAppend v s).txlog = s.txlog := rfl
@[simp] theorem msgAppend_rx : (msgAppend v s).rx = s.rx := rfl
@[simp] theorem msgAppend_rst : (msgAppend v s).rst = s.rst := rfl
@[simp] theorem msgAppend_start : (msgAppend v s).start = s.start := rfl
@[simp] theorem msgAppend_trace : (msgAppend v s).trace = s.trace ++ [.pl v] := rfl
@[simp] theorem msgAppend_draws : (msgAppend v s).draws = s.draws := rfl
end msgAppend

section rearm
variable (s : State)
@[simp] theorem rearm_st : (rearm s).st = .awaitingStart := rfl
@[simp] theorem rearm_idx : (rearm s).idx = 0 := rfl
@[simp] theorem rearm_blk : (rearm s).blk = s.blk := rfl
@[simp] theorem rearm_msg : (rearm s).msg = s.msg := rfl
@[simp] theorem rearm_txlog : (rearm s).txlog = s.txlog := rfl
@[simp] theorem rearm_rx : (rearm s).rx = s.rx := rfl
@[simp] theorem rearm_rst : (rearm s).rst = s.rst := rfl
@[simp] theorem rearm_start : (rearm s).start = s.start := rfl
@[simp] theorem rearm_trace : (rearm s).trace = s.trace := rfl
@[simp] theorem rearm_draws : (rearm s).draws = s.draws := rfl
end rearm

section abandon
variable (s : State)
@[simp] theorem abandon_st : (abandon s).st = .terminated := rfl
@[simp] theorem abandon_idx : (abandon s).idx = 0 := rfl
@[simp] theorem abandon_blk : (abandon s).blk = s.blk := rfl
@[simp] theorem abandon_msg : (abandon s).msg = s.msg := rfl
@[simp] theorem abandon_txlog : (abandon s).txlog = s.txlog := rfl
@[simp] theorem abandon_rx : (abandon s).rx = s.rx := rfl
@[simp] theorem abandon_rst : (abandon s).rst = s.rst := rfl
@[simp] theorem abandon_start : (abandon s).start = s.start := rfl
@[simp] theorem abandon_trace : (abandon s).trace = s.trace := rfl
@[simp] theorem abandon_draws : (abandon s).draws = s.draws := rfl
end abandon

section sendReady
variable (s : State)
@[simp] theorem sendReady_st : (sendReady s).st = .awaitingStart := rfl
@[simp] theorem sendReady_idx : (sendReady s).idx = s.idx := rfl
@[simp] theorem sendReady_blk : (sendReady s).blk = s.blk := rfl
@[simp] theorem sendReady_msg : (sendReady s).msg = s.msg := rfl
@[simp] theorem sendReady_txlog : (sendReady s).txlog = s.txlog ++ [Config.nak] := rfl
@[simp] theorem sendReady_rx : (sendReady s).rx = s.rx := rfl
@[simp] theorem sendReady_rst : (sendReady s).rst = s.rst := rfl
@[simp] theorem sendReady_start : (sendReady s).start = s.start := rfl
@[simp] theorem sendReady_trace : (sendReady s).trace = s.trace ++ [.tx Config.nak] := rfl
@[simp] theorem sendReady_draws : (sendReady s).draws = s.draws := rfl
end sendReady

section confirmEnd
variable (s : State)
@[simp] theorem confirmEnd_st : (confirmEnd s).st = .terminated := rfl
@[simp] theorem confirmEnd_idx : (confirmEnd s).idx = s.idx := rfl
@[simp] theorem confirmEnd_blk : (confirmEnd s).blk = s.blk := rfl
@[simp] theorem confirmEnd_msg : (confirmEnd s).msg = s.msg := rfl
@[simp] theorem confirmEnd_txlog : (confirmEnd s).txlog = s.txlog ++ [Config.ack] := rfl
@[simp] theorem confirmEnd_rx : (confirmEnd s).rx = s.rx := rfl
@[simp] theorem confirmEnd_rst : (confirmEnd s).rst = s.rst := rfl
@[simp] theorem confirmEnd_start : (confirmEnd s).start = s.start := rfl
@[simp] theorem confirmEnd_trace : (confirmEnd s).trace = s.trace ++ [.tx Config.ack] := rfl
@[simp] theorem confirmEnd_draws : (confirmEnd s).draws = s.draws := rfl
end confirmEnd

section storeMarker
variable (s : State)
@[simp] theorem storeMarker_st : (storeMarker s).st = .readingBlock := rfl
@[simp] theorem storeMarker_idx : (storeMarker s).idx = 1 := rfl
@[simp] theorem storeMarker_blk : (storeMarker s).blk = s.blk.set 0 Config.soh := rfl
@[simp] theorem storeMarker_msg : (storeMarker s).msg = s.msg := rfl
@[simp] theorem storeMarker_txlog : (storeMarker s).txlog = s.txlog := rfl
@[simp] theorem storeMarker_rx : (storeMarker s).rx = s.rx := rfl
@[simp] theorem storeMarker_rst : (storeMarker s).rst = s.rst := rfl
@[simp] theorem storeMarker_start : (storeMarker s).start = s.start := rfl
@[simp] theorem storeMarker_trace : (storeMarker s).trace = s.trace := rfl
@[simp] theorem storeMarker_draws : (storeMarker s).draws = s.draws := rfl
end storeMarker

section storeBody
variable (b : Byte) (s : State)

/-- What RX_BODY writes when BLK[IDX] exists. -/
theorem storeBody_of_lt (h : s.idx.val < 9) :
    storeBody b s =
      { s with
        blk := s.blk.set s.idx.val b h
        idx := ⟨s.idx.val + 1, Nat.succ_lt_succ h⟩
        st := if s.idx.val + 1 = 9 then .validating else s.st } := by
  simp [storeBody, h]

theorem storeBody_st (h : s.idx.val < 9) :
    (storeBody b s).st = if s.idx.val + 1 = 9 then .validating else s.st := by
  rw [storeBody_of_lt b s h]
theorem storeBody_idx (h : s.idx.val < 9) : (storeBody b s).idx.val = s.idx.val + 1 := by
  rw [storeBody_of_lt b s h]
theorem storeBody_blk (h : s.idx.val < 9) : (storeBody b s).blk = s.blk.set s.idx.val b h := by
  rw [storeBody_of_lt b s h]
@[simp] theorem storeBody_msg : (storeBody b s).msg = s.msg := by unfold storeBody; split <;> rfl
@[simp] theorem storeBody_txlog : (storeBody b s).txlog = s.txlog := by unfold storeBody; split <;> rfl
@[simp] theorem storeBody_rx : (storeBody b s).rx = s.rx := by unfold storeBody; split <;> rfl
@[simp] theorem storeBody_rst : (storeBody b s).rst = s.rst := by unfold storeBody; split <;> rfl
@[simp] theorem storeBody_start : (storeBody b s).start = s.start := by unfold storeBody; split <;> rfl
@[simp] theorem storeBody_trace : (storeBody b s).trace = s.trace := by unfold storeBody; split <;> rfl
@[simp] theorem storeBody_draws : (storeBody b s).draws = s.draws := by unfold storeBody; split <;> rfl
end storeBody

section resetAll
variable (s : State)
@[simp] theorem resetAll_st : (resetAll s).st = .idle := rfl
@[simp] theorem resetAll_idx : (resetAll s).idx = 0 := rfl
@[simp] theorem resetAll_blk : (resetAll s).blk = freeBuffer s.draws := rfl
@[simp] theorem resetAll_msg : (resetAll s).msg = [] := rfl
@[simp] theorem resetAll_txlog : (resetAll s).txlog = [] := rfl
@[simp] theorem resetAll_rx : (resetAll s).rx = s.rx := rfl
@[simp] theorem resetAll_rst : (resetAll s).rst = s.rst := rfl
@[simp] theorem resetAll_start : (resetAll s).start = s.start := rfl
@[simp] theorem resetAll_trace : (resetAll s).trace = [] := rfl
@[simp] theorem resetAll_draws : (resetAll s).draws = s.draws + 1 := rfl
end resetAll

section PortEvent
variable (w : RxWord) (b : Byte)
@[simp] theorem txByte_rx : txByte? (.rx w) = none := rfl
@[simp] theorem txByte_tx : txByte? (.tx b) = some b := rfl
@[simp] theorem txByte_pl : txByte? (.pl b) = none := rfl
@[simp] theorem plByte_rx : plByte? (.rx w) = none := rfl
@[simp] theorem plByte_tx : plByte? (.tx b) = none := rfl
@[simp] theorem plByte_pl : plByte? (.pl b) = some b := rfl
@[simp] theorem rxWord_rx : rxWord? (.rx w) = some w := rfl
@[simp] theorem rxWord_tx : rxWord? (.tx b) = none := rfl
@[simp] theorem rxWord_pl : rxWord? (.pl b) = none := rfl
end PortEvent

end Sys2Proof.Machine
end

