-- ==== Sys2Proof/Laws/Words.lean ====
section
/-! SUPPORT. The fields of the encoded words: a field read from a word that was made of it is that field, and a word is
what its fields make. And the checks of the validator in one spelling. -/

namespace Sys2Proof.Machine

@[simp] theorem hostRst_mkHost (r st : Bool) : hostRst (mkHost r st) = r := by
  cases r <;> cases st <;> decide

@[simp] theorem hostStart_mkHost (r st : Bool) : hostStart (mkHost r st) = st := by
  cases r <;> cases st <;> decide

theorem mkHost_fields (w : HostWord) : mkHost (hostRst w) (hostStart w) = w := by
  revert w; decide

@[simp] theorem rxErr_mkRx (e : Bool) (d : Byte) : rxErr (mkRx e d) = e := by
  revert e d; decide

@[simp] theorem rxData_mkRx (e : Bool) (d : Byte) : rxData (mkRx e d) = d := by
  revert e d; decide

theorem mkRx_fields (w : RxWord) : mkRx (rxErr w) (rxData w) = w := by
  revert w; decide

theorem mkRx_inj {e e' : Bool} {d d' : Byte} : mkRx e d = mkRx e' d' ↔ e = e' ∧ d = d' := by
  constructor
  · intro h
    exact ⟨by simpa using congrArg rxErr h, by simpa using congrArg rxData h⟩
  · rintro ⟨rfl, rfl⟩; rfl

@[simp] theorem byteWord_inj {b b' : Byte} : byteWord b = byteWord b' ↔ b = b' := by
  simp [byteWord, mkRx_inj]

@[simp] theorem failWord_inj {b b' : Byte} : failWord b = failWord b' ↔ b = b' := by
  simp [failWord, mkRx_inj]

@[simp] theorem byteWord_ne_failWord (b b' : Byte) : byteWord b ≠ failWord b' := by
  simp [byteWord, failWord, mkRx_inj]

@[simp] theorem failWord_ne_byteWord (b b' : Byte) : failWord b ≠ byteWord b' := by
  simp [byteWord, failWord, mkRx_inj]

@[simp] theorem rxErr_byteWord (b : Byte) : rxErr (byteWord b) = false := rxErr_mkRx _ _
@[simp] theorem rxData_byteWord (b : Byte) : rxData (byteWord b) = b := rxData_mkRx _ _
@[simp] theorem rxErr_failWord (b : Byte) : rxErr (failWord b) = true := rxErr_mkRx _ _
@[simp] theorem rxData_failWord (b : Byte) : rxData (failWord b) = b := rxData_mkRx _ _

/-- Every read result is a byte or a failure. -/
theorem rxWord_cases (w : RxWord) : (∃ b, w = byteWord b) ∨ ∃ d, w = failWord d := by
  cases h : rxErr w
  · exact .inl ⟨rxData w, by rw [byteWord, ← h, mkRx_fields]⟩
  · exact .inr ⟨rxData w, by rw [failWord, ← h, mkRx_fields]⟩

/-! ### The packed block -/

theorem extract_low {n : Nat} (hi : BitVec n) (b : Byte) : (hi ++ b).extractLsb' 0 8 = b := by
  rw [BitVec.extractLsb'_append_eq_of_add_le (by omega)]
  simp

theorem extract_high {n : Nat} (hi : BitVec n) (b : Byte) (k : Nat) :
    (hi ++ b).extractLsb' (k + 8) 8 = hi.extractLsb' k 8 := by
  rw [BitVec.extractLsb'_append_eq_of_le (by omega)]
  simp

theorem extract_join {n : Nat} (w : BitVec n) (k m : Nat) :
    w.extractLsb' (k + 8) m ++ w.extractLsb' k 8 = w.extractLsb' k (m + 8) :=
  BitVec.extractLsb'_append_extractLsb'_eq_extractLsb' rfl

/-- The marker of a packed block (R54). -/
theorem blkByte_packBlk (m : Byte) (f : BlockFields) : blkByte (packBlk m f) 0 = m := by
  have h : (m ++ f.seq ++ f.cmp ++ f.p0 ++ f.p1 ++ f.p2 ++ f.p3 ++ f.p4 ++ f.cks).extractLsb'
      (0 + 8 + 8 + 8 + 8 + 8 + 8 + 8 + 8) 8 = m := by
    simp only [extract_high]; simp
  exact h

/-- The fields of a packed block (R54). -/
theorem wordFields_packBlk (m : Byte) (f : BlockFields) : wordFields (packBlk m f) = f := by
  have h1 : (m ++ f.seq ++ f.cmp ++ f.p0 ++ f.p1 ++ f.p2 ++ f.p3 ++ f.p4 ++ f.cks).extractLsb'
      (0 + 8 + 8 + 8 + 8 + 8 + 8 + 8) 8 = f.seq := by simp only [extract_high, extract_low]
  have h2 : (m ++ f.seq ++ f.cmp ++ f.p0 ++ f.p1 ++ f.p2 ++ f.p3 ++ f.p4 ++ f.cks).extractLsb'
      (0 + 8 + 8 + 8 + 8 + 8 + 8) 8 = f.cmp := by simp only [extract_high, extract_low]
  have h3 : (m ++ f.seq ++ f.cmp ++ f.p0 ++ f.p1 ++ f.p2 ++ f.p3 ++ f.p4 ++ f.cks).extractLsb'
      (0 + 8 + 8 + 8 + 8 + 8) 8 = f.p0 := by simp only [extract_high, extract_low]
  have h4 : (m ++ f.seq ++ f.cmp ++ f.p0 ++ f.p1 ++ f.p2 ++ f.p3 ++ f.p4 ++ f.cks).extractLsb'
      (0 + 8 + 8 + 8 + 8) 8 = f.p1 := by simp only [extract_high, extract_low]
  have h5 : (m ++ f.seq ++ f.cmp ++ f.p0 ++ f.p1 ++ f.p2 ++ f.p3 ++ f.p4 ++ f.cks).extractLsb'
      (0 + 8 + 8 + 8) 8 = f.p2 := by simp only [extract_high, extract_low]
  have h6 : (m ++ f.seq ++ f.cmp ++ f.p0 ++ f.p1 ++ f.p2 ++ f.p3 ++ f.p4 ++ f.cks).extractLsb'
      (0 + 8 + 8) 8 = f.p3 := by simp only [extract_high, extract_low]
  have h7 : (m ++ f.seq ++ f.cmp ++ f.p0 ++ f.p1 ++ f.p2 ++ f.p3 ++ f.p4 ++ f.cks).extractLsb'
      (0 + 8) 8 = f.p4 := by simp only [extract_high, extract_low]
  have h8 : (m ++ f.seq ++ f.cmp ++ f.p0 ++ f.p1 ++ f.p2 ++ f.p3 ++ f.p4 ++ f.cks).extractLsb' 0 8 = f.cks := by
    simp only [extract_low]
  cases f
  exact BlockFields.mk.injEq .. |>.mpr ⟨h1, h2, h3, h4, h5, h6, h7, h8⟩

/-- A BLK72 word is what its marker and its fields make (R54). -/
theorem packBlk_wordFields (w : BlkWord) : packBlk (blkByte w 0) (wordFields w) = w := by
  have h : w.extractLsb' (0 + 8 + 8 + 8 + 8 + 8 + 8 + 8 + 8) 8 ++ w.extractLsb' (0 + 8 + 8 + 8 + 8 + 8 + 8 + 8) 8 ++
      w.extractLsb' (0 + 8 + 8 + 8 + 8 + 8 + 8) 8 ++ w.extractLsb' (0 + 8 + 8 + 8 + 8 + 8) 8 ++
      w.extractLsb' (0 + 8 + 8 + 8 + 8) 8 ++ w.extractLsb' (0 + 8 + 8 + 8) 8 ++ w.extractLsb' (0 + 8 + 8) 8 ++
      w.extractLsb' (0 + 8) 8 ++ w.extractLsb' 0 8 = w.extractLsb' 0 (8 + 8 + 8 + 8 + 8 + 8 + 8 + 8 + 8) := by
    simp only [extract_join]
  exact h.trans (by simp)

/-! ### The checks of the validator -/

theorem complementOK_iff (f : BlockFields) : complementOK f = true ↔ f.cmp.toNat = 255 - f.seq.toNat := by
  simp [complementOK]

theorem checksum_toNat (p0 p1 p2 p3 p4 : Byte) :
    (checksum p0 p1 p2 p3 p4).toNat = (p0.toNat + p1.toNat + p2.toNat + p3.toNat + p4.toNat) % 256 := by
  simp [checksum]

theorem checksumOK_iff (f : BlockFields) :
    checksumOK f = true ↔
      f.cks.toNat = (f.p0.toNat + f.p1.toNat + f.p2.toNat + f.p3.toNat + f.p4.toNat) % 256 := by
  rw [← checksum_toNat, ← BitVec.toNat_eq]
  simp [checksumOK, payloadSum]

theorem blockValid_iff (f : BlockFields) : blockValid f = true ↔ complementOK f = true ∧ checksumOK f = true := by
  simp [blockValid]

@[simp] theorem isPad_iff (b : Byte) : isPad b = true ↔ b = Config.pad := by simp [isPad]

@[simp] theorem isPad_eq_false (b : Byte) : isPad b = false ↔ b ≠ Config.pad := by simp [isPad]

end Sys2Proof.Machine
end

