-- ==== Sys2Proof/Laws/Ops.lean ====
section
/-! SUPPORT. One lemma per shared operation that says everything it can do. Proofs cite these instead of unfolding. -/

namespace Sys2Proof.Machine

/-- RxRead answers exactly when a read is outstanding and the stream has a next element (R35). -/
theorem rxRead_eq_some {s t : State} {w : RxWord} :
    rxRead s = some (w, t) ↔ readsInput s.st = true ∧ ∃ rest, s.rx = w :: rest ∧ t = consume w rest s := by
  unfold rxRead
  constructor
  · intro h
    split at h
    · rename_i hr
      split at h
      · cases h
      · rename_i v rest hs
        simp only [Option.some.injEq, Prod.mk.injEq] at h
        exact ⟨hr, rest, by rw [hs, h.1], by rw [← h.1]; exact h.2.symm⟩
    · cases h
  · rintro ⟨hr, rest, hs, rfl⟩
    simp [hr, hs]

/-- An operation that reads: its whole effect, or nothing (R88). -/
theorem onRead_next {modes : List St} {w : RxWord} {k : State → State} {s t : State} (h : onRead modes w k s = .next t) :
    t = s ∨ (readsInput s.st = true ∧ s.st ∈ modes ∧ ∃ rest, s.rx = w :: rest ∧ t = k (consume w rest s)) := by
  unfold onRead at h
  split at h
  · cases h; exact .inl rfl
  · rename_i v s1 hr
    obtain ⟨hin, rest, hs, rfl⟩ := rxRead_eq_some.mp hr
    split at h
    · rename_i hc
      cases h
      exact .inr ⟨hin, hc.1, rest, by rw [hs, hc.2], by rw [hc.2]⟩
    · cases h; exact .inl rfl

/-- An enabled operation that reads completes. -/
theorem onRead_enabled {modes : List St} {w : RxWord} {k : State → State} {s : State} {rest : List RxWord}
    (hin : readsInput s.st = true) (hm : s.st ∈ modes) (hs : s.rx = w :: rest) :
    onRead modes w k s = .next (k (consume w rest s)) := by
  have : rxRead s = some (w, consume w rest s) := rxRead_eq_some.mpr ⟨hin, rest, hs, rfl⟩
  simp [onRead, this, hm]

/-- An operation that reads answers a next state, always. -/
theorem onRead_total (modes : List St) (w : RxWord) (k : State → State) (s : State) :
    ∃ t, onRead modes w k s = .next t := by
  unfold onRead
  split
  · exact ⟨_, rfl⟩
  · split <;> exact ⟨_, rfl⟩

/-- An operation that reads does nothing in a state that is not one of its own. -/
theorem onRead_other_mode {modes : List St} {w : RxWord} {k : State → State} {s : State} (hm : s.st ∉ modes) :
    onRead modes w k s = .next s := by
  unfold onRead
  split
  · rfl
  · simp [hm]

/-- An operation that reads does nothing when its result is not the next element of the stream. -/
theorem onRead_other_word {modes : List St} {w : RxWord} {k : State → State} {s : State} (hw : s.rx.head? ≠ some w) :
    onRead modes w k s = .next s := by
  unfold onRead
  split
  · rfl
  · rename_i v s1 hr
    obtain ⟨-, rest, hs, -⟩ := rxRead_eq_some.mp hr
    rw [if_neg]
    rintro ⟨-, rfl⟩
    exact hw (by simp [hs])

/-- An operation that reads no input: its whole effect, or nothing (R88). -/
theorem onState_next {c : Bool} {k : State → State} {s t : State} (h : onState c k s = .next t) :
    t = s ∨ (c = true ∧ t = k s) := by
  unfold onState at h
  split at h
  · rename_i hc; cases h; exact .inr ⟨hc, rfl⟩
  · cases h; exact .inl rfl

theorem onState_enabled {c : Bool} {k : State → State} {s : State} (hc : c = true) : onState c k s = .next (k s) := by
  simp [onState, hc]

theorem onState_disabled {c : Bool} {k : State → State} {s : State} (hc : c = false) : onState c k s = .next s := by
  simp [onState, hc]

theorem onState_total (c : Bool) (k : State → State) (s : State) : ∃ t, onState c k s = .next t := by
  unfold onState; split <;> exact ⟨_, rfl⟩

theorem holdsBlock_iff {f : BlockFields} {s : State} :
    holdsBlock f s = true ↔ s.st = .validating ∧ bufferFields s.blk = f := by
  simp [holdsBlock]

/-- The filter's fold over payload bytes changes MSG and the trace only, by the bytes that are not 0x03 (R78). -/
theorem foldl_filterByte (p : List Byte) (s : State) :
    p.foldl filterByte s =
      { s with msg := s.msg ++ padFilter p, trace := s.trace ++ (padFilter p).map PortEvent.pl } := by
  induction p generalizing s with
  | nil => simp [padFilter]
  | cons b p ih =>
    rw [List.foldl_cons, ih]
    by_cases hb : isPad b = true
    · simp [filterByte, padFilter, hb]
    · simp only [Bool.not_eq_true] at hb
      simp [filterByte, padFilter, hb, msgAppend]

/-- V_ACCEPT's whole effect (R84). -/
theorem acceptBlock_eq (f : BlockFields) (s : State) :
    acceptBlock f s =
      { s with
        st := .awaitingStart
        idx := 0
        msg := s.msg ++ padFilter (payload f)
        txlog := s.txlog ++ [Config.ack]
        trace := s.trace ++ (padFilter (payload f)).map PortEvent.pl ++ [PortEvent.tx Config.ack] } := by
  simp [acceptBlock, foldl_filterByte, rearm, txWrite]

theorem padFilter_payload_length (f : BlockFields) : (padFilter (payload f)).length ≤ 5 := by
  have : (padFilter (payload f)).length ≤ (payload f).length := List.length_filter_le _ _
  simpa [payload] using this

theorem mem_padFilter {p : List Byte} {b : Byte} : b ∈ padFilter p ↔ b ∈ p ∧ b ≠ Config.pad := by
  simp [padFilter]

/-- Storing BLK[k] extends the stored bytes BLK[0] to BLK[k-1] by one (R70). -/
theorem take_set_succ (v : Vector Byte 9) (k : Nat) (b : Byte) (h : k < 9) :
    (v.set k b h).toList.take (k + 1) = v.toList.take k ++ [b] := by
  have hl : v.toList.length = 9 := by simp
  rw [Vector.toList_set, List.take_set, List.take_add_one, List.set_append]
  simp [hl, h, Nat.le_of_lt h]

/-- The nine bytes of BLK, read as a list, are the bytes of the block it holds, when BLK[0] is the marker (R16). -/
theorem toList_eq_blockBytes (v : Vector Byte 9) (h : v[0] = Config.soh) : v.toList = blockBytes (bufferFields v) := by
  apply List.ext_getElem
  · simp [blockBytes]
  · intro i h1 h2
    simp only [blockBytes, List.length_cons, List.length_nil] at h2
    simp only [blockBytes, bufferFields, Vector.getElem_toList]
    interval_cases i <;> simp [h]

@[simp] theorem filterMap_txByte_pl (l : List Byte) : (l.map PortEvent.pl).filterMap txByte? = [] := by
  induction l <;> simp_all [txByte?]

@[simp] theorem filterMap_plByte_pl (l : List Byte) : (l.map PortEvent.pl).filterMap plByte? = l := by
  induction l <;> simp_all [plByte?]

@[simp] theorem filterMap_rxWord_pl (l : List Byte) : (l.map PortEvent.pl).filterMap rxWord? = [] := by
  induction l <;> simp_all [rxWord?]

end Sys2Proof.Machine
end

