-- ==== Sys2Proof/Laws/PerInstr.lean ====
section
/-! SUPPORT. Per operation, about its syntax alone: its encoded word has the format of its row of
spec/opcode_table.json and the bits that the row fixes (the keys `match` and `mask`, or the fixed bits of `encoding`). -/

namespace Sys2Proof

/-- The row's format with its mask and its match. -/
def Instr.row : Instr → Code × Code
  | .reset _ => (.host 0b10, .host 0b10)
  | .start => (.host 0b11, .host 0b01)
  | .rxFail _ => (.rxev 0x100, .rxev 0x100)
  | .rxEot => (.rxev 0x1FF, .rxev 0x004)
  | .rxSoh => (.rxev 0x1FF, .rxev 0x001)
  | .rxSkip _ => (.rxev 0x100, .rxev 0x000)
  | .rxBody _ => (.rxev 0x100, .rxev 0x000)
  | .vRejectCmp _ => (.blk72 0xFF0000000000000000, .blk72 0x010000000000000000)
  | .vRejectSum _ => (.blk72 0xFF0000000000000000, .blk72 0x010000000000000000)
  | .vAccept _ => (.blk72 0xFF0000000000000000, .blk72 0x010000000000000000)
  | .plDrop => (.plb 0xFF, .plb 0x03)
  | .plKeep _ => (.plb 0x00, .plb 0x00)
  | .txAck => (.txb 0xFF, .txb 0x06)
  | .txNak => (.txb 0xFF, .txb 0x15)

/-- A word matches a row: the same format, and the masked bits are the row's; of a BLK72 row the fixed bits are [71:64]. -/
def Code.fits (c : Code) (row : Code × Code) : Bool :=
  match c, row with
  | .host w, (.host k, .host m) => w &&& k == m
  | .rxev w, (.rxev k, .rxev m) => w &&& k == m
  | .blk72 w, (.blk72 _, .blk72 m) => Machine.blkByte w 0 == Machine.blkByte m 0
  | .plb w, (.plb k, .plb m) => w &&& k == m
  | .txb w, (.txb k, .txb m) => w &&& k == m
  | _, _ => false

end Sys2Proof

namespace Sys2Proof.Laws.RowShape

open Sys2Proof Sys2Proof.Machine

/-- The operation's word matches its row. -/
def Statement (i : Instr) : Prop := (encode i).fits i.row = true

theorem reset (b : Bool) : Statement (.reset b) := by unfold Statement; cases b <;> decide
theorem start : Statement .start := by unfold Statement; decide
theorem rxFail (d : Byte) : Statement (.rxFail d) := by unfold Statement; revert d; decide
theorem rxEot : Statement .rxEot := by unfold Statement; decide
theorem rxSoh : Statement .rxSoh := by unfold Statement; decide
theorem rxSkip (d : Byte) : Statement (.rxSkip d) := by unfold Statement; revert d; decide
theorem rxBody (d : Byte) : Statement (.rxBody d) := by unfold Statement; revert d; decide
theorem vRejectCmp (f : BlockFields) : Statement (.vRejectCmp f) := by
  simp [Statement, Code.fits, encode, Instr.row, blkByte_packBlk]; decide
theorem vRejectSum (f : BlockFields) : Statement (.vRejectSum f) := by
  simp [Statement, Code.fits, encode, Instr.row, blkByte_packBlk]; decide
theorem vAccept (f : BlockFields) : Statement (.vAccept f) := by
  simp [Statement, Code.fits, encode, Instr.row, blkByte_packBlk]; decide
theorem plDrop : Statement .plDrop := by unfold Statement; decide
theorem plKeep (v : Byte) : Statement (.plKeep v) := by unfold Statement; revert v; decide
theorem txAck : Statement .txAck := by unfold Statement; decide
theorem txNak : Statement .txNak := by unfold Statement; decide

end Sys2Proof.Laws.RowShape
end

