-- ==== Sys2Proof/Laws/Step.lean ====
section
/-! SUPPORT. Once, everything that an operation and a step can do: one constructor per row of the transition table
(spec/42_protocol_sequencer.md R88), and the two inversion lemmas that reduce `exec` and `step` to it. -/

namespace Sys2Proof.Machine

/-- An enabled operation and its effect. -/
inductive Transition : State → Instr → State → Prop where
  | reset (s : State) (b : Bool) : Transition s (.reset b) (resetAll s)
  | start (s : State) (h : s.st = .idle) :
      Transition s .start (sendReady s)
  | rxFail (s : State) (d : Byte) (rest : List RxWord) (h : s.st = .awaitingStart ∨ s.st = .readingBlock)
      (hr : s.rx = failWord d :: rest) :
      Transition s (.rxFail d) (abandon (consume (failWord d) rest s))
  | rxEot (s : State) (rest : List RxWord) (h : s.st = .awaitingStart) (hr : s.rx = byteWord Config.eot :: rest) :
      Transition s .rxEot
        (confirmEnd (consume (byteWord Config.eot) rest s))
  | rxSoh (s : State) (rest : List RxWord) (h : s.st = .awaitingStart) (hr : s.rx = byteWord Config.soh :: rest) :
      Transition s .rxSoh (storeMarker (consume (byteWord Config.soh) rest s))
  | rxSkip (s : State) (d : Byte) (rest : List RxWord) (h : s.st = .awaitingStart) (hd : d ≠ Config.soh)
      (hd' : d ≠ Config.eot) (hr : s.rx = byteWord d :: rest) :
      Transition s (.rxSkip d) (consume (byteWord d) rest s)
  | rxBody (s : State) (d : Byte) (rest : List RxWord) (h : s.st = .readingBlock) (hi : s.idx.val < 9)
      (hr : s.rx = byteWord d :: rest) :
      Transition s (.rxBody d) (storeBody d (consume (byteWord d) rest s))
  | vRejectCmp (s : State) (h : s.st = .validating) (hc : complementOK (bufferFields s.blk) = false) :
      Transition s (.vRejectCmp (bufferFields s.blk)) (rearm (txWrite Config.nak s))
  | vRejectSum (s : State) (h : s.st = .validating) (hc : complementOK (bufferFields s.blk) = true)
      (hk : checksumOK (bufferFields s.blk) = false) :
      Transition s (.vRejectSum (bufferFields s.blk)) (rearm (txWrite Config.nak s))
  | vAccept (s : State) (h : s.st = .validating) (hv : blockValid (bufferFields s.blk) = true) :
      Transition s (.vAccept (bufferFields s.blk)) (acceptBlock (bufferFields s.blk) s)
  | plDrop (s : State) (h : s.st = .validating) : Transition s .plDrop s
  | plKeep (s : State) (v : Byte) (h : s.st = .validating) (hv : v ≠ Config.pad) :
      Transition s (.plKeep v) (msgAppend v s)
  | txAck (s : State) (h : s.st = .validating ∨ s.st = .awaitingStart) : Transition s .txAck (txWrite Config.ack s)
  | txNak (s : State) (h : s.st = .idle ∨ s.st = .validating) : Transition s .txNak (txWrite Config.nak s)

/-- An operation has its whole effect or none (R88). -/
theorem exec_next {i : Instr} {s t : State} (h : exec i s = .next t) : t = s ∨ Transition s i t := by
  cases i with
  | reset b => cases h; exact .inr (.reset s b)
  | start =>
    obtain h | ⟨hc, rfl⟩ := onState_next h
    · exact .inl h
    · exact .inr (.start s (by simpa using hc))
  | rxFail d =>
    obtain h | ⟨-, hm, rest, hs, rfl⟩ := onRead_next h
    · exact .inl h
    · exact .inr (.rxFail s d rest (by simpa using hm) hs)
  | rxEot =>
    obtain h | ⟨-, hm, rest, hs, rfl⟩ := onRead_next h
    · exact .inl h
    · exact .inr (.rxEot s rest (by simpa using hm) hs)
  | rxSoh =>
    obtain h | ⟨-, hm, rest, hs, rfl⟩ := onRead_next h
    · exact .inl h
    · exact .inr (.rxSoh s rest (by simpa using hm) hs)
  | rxSkip d =>
    simp only [exec, execRxSkip] at h
    split at h
    · rename_i hd
      obtain h | ⟨-, hm, rest, hs, rfl⟩ := onRead_next h
      · exact .inl h
      · exact .inr (.rxSkip s d rest (by simpa using hm) hd.1 hd.2 hs)
    · cases h; exact .inl rfl
  | rxBody d =>
    simp only [exec, execRxBody] at h
    split at h
    · rename_i hi
      obtain h | ⟨-, hm, rest, hs, rfl⟩ := onRead_next h
      · exact .inl h
      · exact .inr (.rxBody s d rest (by simpa using hm) hi hs)
    · cases h; exact .inl rfl
  | vRejectCmp f =>
    obtain h | ⟨hc, rfl⟩ := onState_next h
    · exact .inl h
    · simp only [Bool.and_eq_true, Bool.not_eq_true', holdsBlock_iff] at hc
      obtain ⟨⟨hst, rfl⟩, hk⟩ := hc
      exact .inr (.vRejectCmp s hst hk)
  | vRejectSum f =>
    obtain h | ⟨hc, rfl⟩ := onState_next h
    · exact .inl h
    · simp only [Bool.and_eq_true, Bool.not_eq_true', holdsBlock_iff] at hc
      obtain ⟨⟨hst, rfl⟩, hk, hs⟩ := hc
      exact .inr (.vRejectSum s hst hk hs)
  | vAccept f =>
    obtain h | ⟨hc, rfl⟩ := onState_next h
    · exact .inl h
    · simp only [Bool.and_eq_true, holdsBlock_iff] at hc
      obtain ⟨⟨hst, rfl⟩, hv⟩ := hc
      exact .inr (.vAccept s hst hv)
  | plDrop =>
    simp only [exec, execPlDrop] at h
    obtain h | ⟨hc, rfl⟩ := onState_next h
    · exact .inl h
    · exact .inl (by simp)
  | plKeep v =>
    simp only [exec, execPlKeep] at h
    obtain h | ⟨hc, rfl⟩ := onState_next h
    · exact .inl h
    · simp only [Bool.and_eq_true, Bool.not_eq_true', isPad_eq_false, beq_iff_eq] at hc
      refine .inr ?_
      have hp : isPad v = false := (isPad_eq_false v).mpr hc.2
      simpa [filterByte, hp] using Transition.plKeep s v hc.1 hc.2
  | txAck =>
    obtain h | ⟨hc, rfl⟩ := onState_next h
    · exact .inl h
    · exact .inr (.txAck s (by simpa using hc))
  | txNak =>
    obtain h | ⟨hc, rfl⟩ := onState_next h
    · exact .inl h
    · exact .inr (.txNak s (by simpa using hc))

/-- The converse: an enabled operation completes with its effect. -/
theorem exec_of_transition {i : Instr} {s t : State} (h : Transition s i t) : exec i s = .next t := by
  cases h with
  | reset b => rfl
  | start h => exact onState_enabled (by simp [h])
  | rxFail d rest h hr =>
    exact onRead_enabled (by rcases h with h | h <;> simp [h, readsInput]) (by simpa using h) hr
  | rxEot rest h hr => exact onRead_enabled (by simp [h, readsInput]) (by simp [h]) hr
  | rxSoh rest h hr => exact onRead_enabled (by simp [h, readsInput]) (by simp [h]) hr
  | rxSkip d rest h hd hd' hr =>
    simp only [exec, execRxSkip]
    rw [if_pos ⟨hd, hd'⟩]
    exact onRead_enabled (by simp [h, readsInput]) (by simp [h]) hr
  | rxBody d rest h hi hr =>
    simp only [exec, execRxBody]
    rw [if_pos hi]
    exact onRead_enabled (by simp [h, readsInput]) (by simp [h]) hr
  | vRejectCmp h hc => exact onState_enabled (by simp [holdsBlock, h, hc])
  | vRejectSum h hc hk => exact onState_enabled (by simp [holdsBlock, h, hc, hk])
  | vAccept h hv => exact onState_enabled (by simp [holdsBlock, h, hv])
  | plDrop h =>
    have := onState_enabled (c := s.st == .validating) (k := fun t => filterByte t Config.pad) (s := s) (by simp [h])
    simpa [exec, execPlDrop, filterByte, isPad] using this
  | plKeep v h hv =>
    have hp : isPad v = false := (isPad_eq_false v).mpr hv
    have := onState_enabled (c := s.st == .validating && !isPad v) (k := fun t => filterByte t v) (s := s)
      (by simp [h, hp])
    simpa [exec, execPlKeep, filterByte, hp] using this
  | txAck h => exact onState_enabled (by simpa using h)
  | txNak h => exact onState_enabled (by simpa using h)

/-- Every operation answers a next state in every state. -/
theorem exec_total (i : Instr) (s : State) : ∃ t, exec i s = .next t := by
  cases i with
  | reset b => exact ⟨_, rfl⟩
  | rxSkip d =>
    simp only [exec, execRxSkip]
    split
    · exact onRead_total ..
    · exact ⟨_, rfl⟩
  | rxBody d =>
    simp only [exec, execRxBody]
    split
    · exact onRead_total ..
    · exact ⟨_, rfl⟩
  | rxFail d => exact onRead_total ..
  | rxEot => exact onRead_total ..
  | rxSoh => exact onRead_total ..
  | start => exact onState_total ..
  | vRejectCmp f => exact onState_total ..
  | vRejectSum f => exact onState_total ..
  | vAccept f => exact onState_total ..
  | plDrop => simp only [exec, execPlDrop]; exact onState_total ..
  | plKeep v => simp only [exec, execPlKeep]; exact onState_total ..
  | txAck => exact onState_total ..
  | txNak => exact onState_total ..

/-- The host's inputs: `rst` first, then `start` in Idle, else the block's own selection (R57). -/
theorem fetch_eq (s : State) :
    fetch s =
      if s.rst = true then some (.reset s.start)
      else if s.start = true ∧ s.st = .idle then some .start
      else fetchBlock s := by
  unfold fetch decodeHost hostWord
  rw [hostRst_mkHost, hostStart_mkHost]
  by_cases hr : s.rst = true
  · simp [hr]
  · by_cases hs : s.start = true
    · by_cases hi : s.st = .idle <;> simp [hr, hs, hi]
    · simp [hr, hs]

/-- The operations that a step can run: the ten of R88, not the four that run inside them (log entry 7). -/
def Instr.isStep : Instr → Bool
  | .plDrop => false
  | .plKeep _ => false
  | .txAck => false
  | .txNak => false
  | .reset _ => true
  | .start => true
  | .rxFail _ => true
  | .rxEot => true
  | .rxSoh => true
  | .rxSkip _ => true
  | .rxBody _ => true
  | .vRejectCmp _ => true
  | .vRejectSum _ => true
  | .vAccept _ => true

theorem fetch_isStep {s : State} {i : Instr} (h : fetch s = some i) : Instr.isStep i = true := by
  rw [fetch_eq] at h
  split at h
  · cases h; rfl
  · split at h
    · cases h; rfl
    · unfold fetchBlock at h
      split at h
      · cases h
      · cases hx : s.rx with
        | nil => simp [hx] at h
        | cons w rest =>
          simp only [hx, List.head?_cons, Option.map_some, Option.some.injEq, decodeAwaiting] at h
          subst h
          split
          · rfl
          · split
            · rfl
            · split <;> rfl
      · cases hx : s.rx with
        | nil => simp [hx] at h
        | cons w rest =>
          simp only [hx, List.head?_cons, Option.map_some, Option.some.injEq, decodeReading] at h
          subst h
          split <;> rfl
      · simp only [Option.some.injEq, decodeBlock] at h
        subst h
        split
        · rfl
        · split <;> rfl
      · cases h

/-- A step changes nothing or has the whole effect of the one operation selected. -/
theorem step_next {s t : State} (h : step s = .next t) :
    t = s ∨ ∃ i, fetch s = some i ∧ Instr.isStep i = true ∧ Transition s i t := by
  unfold step at h
  split at h
  · rename_i i hf
    obtain h | ht := exec_next h
    · exact .inl h
    · exact .inr ⟨i, hf, fetch_isStep hf, ht⟩
  · cases h; exact .inl rfl

theorem decodeAwaiting_ne_reset (w : RxWord) (b : Bool) : decodeAwaiting w ≠ .reset b := by
  unfold decodeAwaiting
  split
  · simp
  · split
    · simp
    · split <;> simp

theorem decodeReading_ne_reset (w : RxWord) (b : Bool) : decodeReading w ≠ .reset b := by
  unfold decodeReading
  split <;> simp

theorem decodeBlock_ne_reset (f : BlockFields) (b : Bool) : decodeBlock f ≠ .reset b := by
  unfold decodeBlock
  split
  · simp
  · split <;> simp

/-- RESET is selected exactly while `rst` is 1 (R30). -/
theorem fetch_reset_iff {s : State} {b : Bool} : fetch s = some (.reset b) ↔ s.rst = true ∧ s.start = b := by
  rw [fetch_eq]
  by_cases hr : s.rst = true
  · simp [hr]
  · rw [if_neg hr]
    refine iff_of_false ?_ (fun h => hr h.1)
    split
    · simp
    · unfold fetchBlock
      split
      · simp
      · simp [Option.map_eq_some_iff, decodeAwaiting_ne_reset]
      · simp [Option.map_eq_some_iff, decodeReading_ne_reset]
      · simp [decodeBlock_ne_reset]
      · simp

end Sys2Proof.Machine
end

