-- ==== Sys2Proof/Tests/Slice0.lean ====
section
/-! SUPPORT. The model's own tests: expected values come from spec/95_test_vectors.md and from the encodings of
spec/30_encoding.md, written out by hand; and a witness for the hypotheses of every statement that has some. -/

namespace Sys2Proof.Tests

open Sys2Proof Sys2Proof.Machine

/-- The next state of an outcome, if it is one. -/
def next? : Host.Outcome State Fault Refusal → Option State
  | .next s => some s
  | .fault _ => none
  | .refused _ => none

/-- After RESET and START, with these results pending. -/
def awaiting (rx : List RxWord) : State :=
  { State.reset with st := .awaitingStart, txlog := [0x15], trace := [.tx 0x15], rx := rx }

/-- In the block `01 01 FE 41 42 43 03 03 ..` with `k + 1` bytes read, these results pending. -/
def reading (k : Fin 8) (rx : List RxWord) : State :=
  { awaiting rx with
    st := .readingBlock
    idx := ⟨k.val + 1, by omega⟩
    blk := #v[0x01, 0x01, 0xFE, 0x41, 0x42, 0x43, 0x03, 0x03, 0x00] }

/-- In Validating with this block. -/
def validating (blk : Vector Byte 9) : State := { awaiting [] with st := .validating, idx := 9, blk := blk }

/-- A session that has ended with nothing received. -/
def ended : State := { awaiting [0x001] with st := .terminated }

/-! ### Well-formedness: each check refuses an ill-formed term -/

theorem test_wf_rxSkip_refuses_marker : (Instr.rxSkip 0x01).wf = false := by decide
theorem test_wf_rxSkip_refuses_eot : (Instr.rxSkip 0x04).wf = false := by decide
theorem test_wf_plKeep_refuses_pad : (Instr.plKeep 0x03).wf = false := by decide
theorem test_wf_vRejectCmp_refuses_right_complement :
    (Instr.vRejectCmp ⟨0x01, 0xFE, 0x41, 0x42, 0x43, 0x03, 0x03, 0xCD⟩).wf = false := by decide
theorem test_wf_vRejectSum_refuses_right_checksum :
    (Instr.vRejectSum ⟨0x01, 0xFE, 0x41, 0x42, 0x43, 0x03, 0x03, 0xCC⟩).wf = false := by decide
theorem test_wf_vRejectSum_refuses_wrong_complement :
    (Instr.vRejectSum ⟨0x09, 0x00, 0x01, 0x02, 0x03, 0x04, 0x05, 0x00⟩).wf = false := by decide
theorem test_wf_vAccept_refuses_printed_checksum :
    (Instr.vAccept ⟨0x01, 0xFE, 0x41, 0x42, 0x43, 0x03, 0x03, 0x8E⟩).wf = false := by decide
theorem test_wf_vAccept_refuses_twos_complement :
    (Instr.vAccept ⟨0x01, 0xFF, 0x41, 0x42, 0x43, 0x03, 0x03, 0xCC⟩).wf = false := by decide
theorem test_wf_accepts_valid_block :
    (Instr.vAccept ⟨0x01, 0xFE, 0x41, 0x42, 0x43, 0x03, 0x03, 0xCC⟩).wf = true := by decide

/-! ### Decoding: a word written out bit by bit from 30_encoding.md, one for each operation -/

theorem test_decode_reset : decode .terminated (.host 0b10) = .ok (.reset false) := by decide
theorem test_decode_reset_wins_over_start : decode .idle (.host 0b11) = .ok (.reset true) := by decide
theorem test_decode_start : decode .idle (.host 0b01) = .ok .start := by decide
theorem test_decode_start_elsewhere : decode .awaitingStart (.host 0b01) = .error .startIgnored := by decide
theorem test_decode_rxFail : decode .readingBlock (.rxev 0b110101010) = .ok (.rxFail 0xAA) := by decide
theorem test_decode_rxEot : decode .awaitingStart (.rxev 0b000000100) = .ok .rxEot := by decide
theorem test_decode_rxSoh : decode .awaitingStart (.rxev 0b000000001) = .ok .rxSoh := by decide
theorem test_decode_rxSkip : decode .awaitingStart (.rxev 0b010000100) = .ok (.rxSkip 0x84) := by decide
theorem test_decode_rxBody : decode .readingBlock (.rxev 0b000000001) = .ok (.rxBody 0x01) := by decide
theorem test_decode_vRejectCmp :
    decode .validating (.blk72
      0b00000001_00001001_00000000_00000001_00000010_00000011_00000100_00000101_00000000) =
      .ok (.vRejectCmp ⟨0x09, 0x00, 0x01, 0x02, 0x03, 0x04, 0x05, 0x00⟩) := by decide
theorem test_decode_vRejectSum :
    decode .validating (.blk72
      0b00000001_00000001_11111110_10000000_10000000_00000000_00000000_00000000_00000001) =
      .ok (.vRejectSum ⟨0x01, 0xFE, 0x80, 0x80, 0x00, 0x00, 0x00, 0x01⟩) := by decide
theorem test_decode_vAccept :
    decode .validating (.blk72
      0b00000001_00000001_11111110_01000001_01000010_01000011_00000011_00000011_11001100) =
      .ok (.vAccept ⟨0x01, 0xFE, 0x41, 0x42, 0x43, 0x03, 0x03, 0xCC⟩) := by decide
theorem test_decode_bad_marker : decode .validating (.blk72 0x0201FE4142430303CC) = .error .badMarker := by decide
theorem test_decode_plDrop : decode .validating (.plb 0b00000011) = .ok .plDrop := by decide
theorem test_decode_plKeep : decode .validating (.plb 0b00010011) = .ok (.plKeep 0x13) := by decide
theorem test_decode_txAck : decode .awaitingStart (.txb 0b00000110) = .ok .txAck := by decide
theorem test_decode_txNak : decode .idle (.txb 0b00010101) = .ok .txNak := by decide
theorem test_decode_never_transmitted : decode .idle (.txb 0x01) = .error .neverTransmitted := by decide

/-! ### The functions of the validator (95_test_vectors.md 2.1) -/

theorem test_checksum :
    checksum 0x41 0x42 0x43 0x03 0x03 = 0xCC ∧ checksum 0x48 0x45 0x4C 0x4C 0x4F = 0x74 ∧
    checksum 0x7F 0x7F 0x7F 0x7F 0x7F = 0x7B ∧ checksum 0xFF 0x01 0x00 0x00 0x00 = 0x00 := by decide
theorem test_padFilter :
    padFilter [0x02, 0x03, 0x04, 0x30, 0x13] = [0x02, 0x04, 0x30, 0x13] ∧
    padFilter [0x03, 0x03, 0x03, 0x03, 0x41] = [0x41] := by decide

/-! ### One step of each operation (95_test_vectors.md 2.2 to 2.4 and the examples of the rules) -/

theorem test_step_start :
    (next? (step { State.reset with start := true })).map (fun t => (t.st, t.idx.val, t.txlog)) =
      some (.awaitingStart, 0, [0x15]) := by decide
theorem test_step_idle_keeps_offered_byte :
    (next? (step { State.reset with rx := [0x001] })).map (fun t => (t.st, t.rx)) = some (.idle, [0x001]) := by decide
theorem test_step_reset_wins :
    (next? (step { reading 4 [0x001] with rst := true, start := true, msg := [0x41] })).map
      (fun t => (t.st, t.idx.val, t.msg, t.txlog, t.rx)) = some (.idle, 0, [], [], [0x001]) := by decide
theorem test_step_rxSoh :
    (next? (step (awaiting [0x001, 0x004]))).map (fun t => (t.st, t.idx.val, t.blk[0], t.rx)) =
      some (.readingBlock, 1, 0x01, [0x004]) := by decide
theorem test_step_rxSkip :
    (next? (step (awaiting [0x015, 0x004]))).map (fun t => (t.st, t.idx.val, t.txlog, t.rx)) =
      some (.awaitingStart, 0, [0x15], [0x004]) := by decide
theorem test_step_rxBody_last :
    (next? (step (reading 7 [0x0CC]))).map (fun t => (t.st, t.idx.val, t.blk[8])) = some (.validating, 9, 0xCC) := by
  decide
theorem test_step_rxBody_eot_is_data :
    (next? (step (reading 0 [0x004]))).map (fun t => (t.st, t.idx.val, t.blk[1], t.txlog)) =
      some (.readingBlock, 2, 0x04, [0x15]) := by decide
theorem test_step_rxEot :
    (next? (step (awaiting [0x004, 0x001]))).map (fun t => (t.st, t.txlog, t.msg, t.rx)) =
      some (.terminated, [0x15, 0x06], [], [0x001]) := by decide
theorem test_step_rxFail :
    (next? (step (reading 3 [0x1CC]))).map (fun t => (t.st, t.idx.val, t.txlog, t.msg)) =
      some (.terminated, 0, [0x15], []) := by decide
theorem test_step_vAccept_V_A5 :
    (next? (step (validating #v[0x01, 0xFF, 0x00, 0x03, 0x41, 0x03, 0x42, 0x03, 0x8C]))).map
      (fun t => (t.st, t.idx.val, t.txlog, t.msg)) = some (.awaitingStart, 0, [0x15, 0x06], [0x41, 0x42]) := by decide
theorem test_step_vRejectSum_V_C1 :
    (next? (step (validating #v[0x01, 0x01, 0xFE, 0x41, 0x42, 0x43, 0x03, 0x03, 0x8E]))).map
      (fun t => (t.st, t.idx.val, t.txlog, t.msg)) = some (.awaitingStart, 0, [0x15, 0x15], []) := by decide
theorem test_step_vRejectCmp_V_S2 :
    (next? (step (validating #v[0x01, 0x09, 0x00, 0x01, 0x02, 0x03, 0x04, 0x05, 0x00]))).map
      (fun t => (t.st, t.idx.val, t.txlog, t.msg)) = some (.awaitingStart, 0, [0x15, 0x15], []) := by decide
theorem test_step_terminated_ignores_start :
    next? (step { ended with start := true }) = some { ended with start := true } := by decide
theorem test_step_stalled_block_waits : next? (step (reading 5 [])) = some (reading 5 []) := by decide
theorem test_exec_plKeep :
    (next? (exec (.plKeep 0x41) (validating (Vector.replicate 9 0)))).map (fun t => (t.st, t.msg)) =
      some (.validating, [0x41]) := by decide
theorem test_exec_txNak :
    (next? (exec .txNak State.reset)).map (fun t => (t.st, t.txlog)) = some (.idle, [0x15]) := by decide

/-! ### Words of the opcode table, decoded and run as the first operation after reset -/

theorem test_table_words :
    decodeTableWord 8 2 = some (.reset false) ∧ decodeTableWord 8 1 = some .start ∧
    decodeTableWord 16 0x100 = some (.rxFail 0x00) ∧ decodeTableWord 16 0x004 = some .rxEot ∧
    decodeTableWord 16 0x001 = some .rxSoh ∧ decodeTableWord 16 0x000 = some (.rxSkip 0x00) ∧
    decodeTableWord 72 0x0101FE4142430303CC =
      some (.vAccept ⟨0x01, 0xFE, 0x41, 0x42, 0x43, 0x03, 0x03, 0xCC⟩) ∧
    decodeTableWord 8 3 = some .plDrop ∧ decodeTableWord 8 0 = some (.plKeep 0x00) ∧
    decodeTableWord 8 6 = some .txAck ∧ decodeTableWord 8 0x15 = some .txNak := by decide
theorem test_placed_operation_is_fetched :
    fetch (State.reset.withFetchWord 16 0x001) = some .rxSoh ∧
    fetch (State.reset.withFetchWord 8 2) = some (.reset false) ∧
    fetch (State.reset.withFetchWord 72 0x0102FC4849210303B8) =
      some (.vRejectCmp ⟨0x02, 0xFC, 0x48, 0x49, 0x21, 0x03, 0x03, 0xB8⟩) := by decide
theorem test_placed_payload_byte_is_kept :
    (next? (step (State.reset.withFetchWord 8 0x41))).map (fun t => (t.msg, t.txlog)) = some ([0x41], [0x06]) := by
  decide

/-! ### Witnesses: for each statement with hypotheses a state and operands that meet them, at the ends of their ranges -/

theorem awaiting_inv (rx : List RxWord) : Inv (awaiting rx) := by
  constructor <;> simp [awaiting, State.reset]

theorem reading_inv (k : Fin 8) (rx : List RxWord) : Inv (reading k rx) := by
  constructor <;> simp [reading, awaiting, State.reset]

theorem reset_inv : Inv State.reset := by constructor <;> simp [State.reset]

theorem witness_StepRunsTheDecodedOperation :
    ({ awaiting [] with rst := true }.rst = true) ∧
    (let s := { State.reset with start := true }; s.rst = false ∧ s.st = .idle ∧ s.start = true) ∧
    (let s := awaiting [0x004]; s.rst = false ∧ s.rx = 0x004 :: [] ∧ decode s.st (.rxev 0x004) = .ok .rxEot) ∧
    (let s := validating (Vector.replicate 9 0); s.rst = false ∧ s.st = .validating) ∧
    (ended.rst = false ∧ ended.st = .terminated) ∧
    (State.reset.rst = false ∧ State.reset.st = .idle ∧ State.reset.start = false) ∧
    ((reading 0 []).rst = false ∧ readsInput (reading 0 []).st = true ∧ (reading 0 []).rx = []) := by decide

theorem witness_DecodeOfEncodeIsTheOperation :
    (Instr.rxSkip 0xFF).wf = true ∧ St.awaitingStart ∈ (Instr.rxSkip 0xFF).modes ∧
    (Instr.vAccept ⟨0x00, 0xFF, 0xFF, 0xFF, 0xFF, 0xFF, 0xFF, 0xFB⟩).wf = true := by decide

theorem witness_DecodedWordIsTheEncoding : decode .readingBlock (.rxev 0x1FF) = .ok (.rxFail 0xFF) := by decide

theorem witness_HostWordDecode : St.terminated ≠ .idle ∧ ended.st ≠ .idle := by decide

theorem witness_AwaitingStartDecode :
    ((0x1FF : RxWord) &&& 0x100 = 0x100) ∧ ((0x100 : RxWord) &&& 0x100 = 0x100) ∧ ((0x004 : RxWord) &&& 0x1FF = 0x004) ∧
    ((0x001 : RxWord) &&& 0x1FF = 0x001) ∧
    ((0x0FF : RxWord) &&& 0x100 = 0x000 ∧ (0x0FF : RxWord) ≠ 0x004 ∧ (0x0FF : RxWord) ≠ 0x001) ∧
    ((0x000 : RxWord) &&& 0x100 = 0x000 ∧ (0x000 : RxWord) ≠ 0x004 ∧ (0x000 : RxWord) ≠ 0x001) := by decide

theorem witness_ReadingBlockDecode :
    ((0x100 : RxWord) &&& 0x100 = 0x100) ∧ ((0x0FF : RxWord) &&& 0x100 = 0x000) := by decide

/-- Also for VRejectCmpAnswersNak, VRejectSumAnswersNak and VAcceptAppendsThenAcks: three blocks, one per condition. -/
theorem witness_CompletedBlockDecode :
    (let f : BlockFields := ⟨0x01, 0xFF, 0x41, 0x42, 0x43, 0x03, 0x03, 0xCC⟩; f.cmp.toNat ≠ 255 - f.seq.toNat) ∧
    (let f : BlockFields := ⟨0x01, 0xFE, 0x41, 0x42, 0x43, 0x03, 0x03, 0xCD⟩
     f.cmp.toNat = 255 - f.seq.toNat ∧
       f.cks.toNat ≠ (f.p0.toNat + f.p1.toNat + f.p2.toNat + f.p3.toNat + f.p4.toNat) % 256) ∧
    (let f : BlockFields := ⟨0xFF, 0x00, 0xFF, 0xFF, 0xFF, 0xFF, 0xFF, 0xFB⟩
     f.cmp.toNat = 255 - f.seq.toNat ∧
       f.cks.toNat = (f.p0.toNat + f.p1.toNat + f.p2.toNat + f.p3.toNat + f.p4.toNat) % 256) := by decide

theorem witness_NoReadDecodedElsewhere :
    (State.reset.st = .idle ∧ State.reset.rst = false ∧ step State.reset = .next State.reset) ∧
    (validating (Vector.replicate 9 0)).st = .validating ∧ (ended.st = .terminated ∧ ended.rst = false) :=
  ⟨⟨rfl, rfl, rfl⟩, rfl, rfl, rfl⟩

theorem witness_ExactlyOneOutcome :
    (let s := validating #v[0x01, 0x02, 0xFC, 0x48, 0x49, 0x21, 0x03, 0x03, 0xB8]
     let s' := validating #v[0xFF, 0x02, 0xFC, 0x48, 0x49, 0x21, 0x03, 0x03, 0xB8]
     s.st = .validating ∧ s'.st = .validating ∧ s.rst = false ∧ s'.rst = false ∧
       s.blk[1] = s'.blk[1] ∧ s.blk[8] = s'.blk[8] ∧ s ≠ s') := by decide

/-- Also for WhoWritesToTheTransport: the operation is the one selected. -/
theorem witness_RxSohStoresTheMarker :
    (awaiting [0x001]).st = .awaitingStart ∧ (awaiting [0x001]).rx = 0x001 :: [] ∧
    fetch (awaiting [0x001]) = some .rxSoh := by decide

theorem witness_RxSkipChangesNothing :
    (awaiting [0x000]).st = .awaitingStart ∧ (0x00 : Byte) ≠ 0x01 ∧ (0x00 : Byte) ≠ 0x04 ∧
    (awaiting [0x000]).rx = byteWord 0x00 :: [] := by decide

theorem witness_RxBodyStoresOneByte :
    ((reading 0 [0x004]).idx.val = 1 ∧ (reading 0 [0x004]).st = .readingBlock ∧
      (reading 0 [0x004]).rx = byteWord 0x04 :: []) ∧
    ((reading 7 [0x0CC]).idx.val = 8 ∧ (reading 7 [0x0CC]).st = .readingBlock ∧
      (reading 7 [0x0CC]).rx = byteWord 0xCC :: []) := by decide

theorem witness_VRejectCmpAnswersNak :
    (validating #v[0x01, 0x01, 0xFF, 0x41, 0x42, 0x43, 0x03, 0x03, 0xCC]).st = .validating ∧
    bufferFields (validating #v[0x01, 0x01, 0xFF, 0x41, 0x42, 0x43, 0x03, 0x03, 0xCC]).blk =
      ⟨0x01, 0xFF, 0x41, 0x42, 0x43, 0x03, 0x03, 0xCC⟩ := by decide

theorem witness_VRejectSumAnswersNak :
    (validating #v[0x01, 0x01, 0xFE, 0x41, 0x42, 0x43, 0x03, 0x03, 0xCD]).st = .validating ∧
    bufferFields (validating #v[0x01, 0x01, 0xFE, 0x41, 0x42, 0x43, 0x03, 0x03, 0xCD]).blk =
      ⟨0x01, 0xFE, 0x41, 0x42, 0x43, 0x03, 0x03, 0xCD⟩ := by decide

/-- Also for VAcceptRunsThePayloadOperations. -/
theorem witness_VAcceptAppendsThenAcks :
    (validating #v[0x01, 0xFF, 0x00, 0xFF, 0xFF, 0xFF, 0xFF, 0xFF, 0xFB]).st = .validating ∧
    bufferFields (validating #v[0x01, 0xFF, 0x00, 0xFF, 0xFF, 0xFF, 0xFF, 0xFF, 0xFB]).blk =
      ⟨0xFF, 0x00, 0xFF, 0xFF, 0xFF, 0xFF, 0xFF, 0xFB⟩ ∧
    blockValid ⟨0xFF, 0x00, 0xFF, 0xFF, 0xFF, 0xFF, 0xFF, 0xFB⟩ = true := by decide

theorem witness_StartSendsTheReadyNak : State.reset.st = .idle ∧ Inv State.reset ∧ ended.st ≠ .idle :=
  ⟨rfl, reset_inv, by decide⟩

/-- Also for EndsLookTheSame, with the next witness. -/
theorem witness_RxEotAcksAndTerminates :
    (awaiting [0x004]).st = .awaitingStart ∧ (awaiting [0x004]).rx = 0x004 :: [] ∧
    (next? (exec .rxEot (awaiting [0x004]))).map (·.rst) = some false := by decide

theorem witness_RxFailTerminatesSilently :
    ((awaiting [0x100]).st = .awaitingStart ∧ (awaiting [0x100]).rx = failWord 0x00 :: []) ∧
    ((reading 7 [0x1FF]).st = .readingBlock ∧ (reading 7 [0x1FF]).rx = failWord 0xFF :: []) ∧
    (next? (exec (.rxFail 0xFF) (reading 7 [0x1FF]))).map (·.rst) = some false := by decide

theorem witness_EndsLookTheSame :
    (awaiting [0x004]).st = .awaitingStart ∧ (awaiting [0x004]).rx.head? = some (byteWord 0x04) ∧
    readsInput (reading 0 [0x100]).st = true ∧ (reading 0 [0x100]).rx.head? = some (failWord 0x00) ∧
    (next? (exec .rxEot (awaiting [0x004]))).isSome = true ∧
    (next? (exec (.rxFail 0x00) (reading 0 [0x100]))).isSome = true := by decide

theorem witness_ResetFromAnyState : ({ reading 4 [0x001] with rst := true }).rst = true := rfl

theorem witness_PayloadByteDroppedOrKept :
    (validating (Vector.replicate 9 0)).st = .validating ∧ (0x00 : Byte) ≠ 0x03 := by decide

theorem witness_AckAndNakAreWritten :
    (validating (Vector.replicate 9 0)).st = .validating ∧ (awaiting []).st = .awaitingStart ∧
    State.reset.st = .idle := by decide

theorem witness_WhoWritesEachElement :
    Inv (reading 0 [0x0FF]) ∧ (next? (exec (.rxBody 0xFF) (reading 0 [0x0FF]))).isSome = true ∧
    Inv (reading 7 [0x0FF]) ∧ (next? (exec (.rxBody 0xFF) (reading 7 [0x0FF]))).isSome = true :=
  ⟨reading_inv _ _, by decide, reading_inv _ _, by decide⟩

theorem witness_NotEnabledDoesNothing :
    State.reset.st ∉ Instr.rxSoh.modes ∧
    (encode .rxSoh = .rxev 0x001 ∧ (awaiting [0x004]).rx.head? ≠ some 0x001) ∧
    (awaiting []).rx.head? ≠ some 0x001 := by decide

/-- For the clauses on validation outcomes: V-S1's block held, another named; a right and a wrong complement; a right and a
wrong checksum. And for the clause on IDX 9. -/
theorem witness_NotEnabledDoesNothing_outcomes :
    (bufferFields (validating #v[0x01, 0x02, 0xFC, 0x48, 0x49, 0x21, 0x03, 0x03, 0xB8]).blk ≠
      ⟨0x02, 0xFD, 0x48, 0x49, 0x21, 0x03, 0x03, 0xB8⟩) ∧
    (let f : BlockFields := ⟨0xFF, 0x00, 0xFF, 0xFF, 0xFF, 0xFF, 0xFF, 0xFB⟩
     f.cmp.toNat = 255 - f.seq.toNat ∧
       f.cks.toNat = (f.p0.toNat + f.p1.toNat + f.p2.toNat + f.p3.toNat + f.p4.toNat) % 256) ∧
    (let f : BlockFields := ⟨0x00, 0x00, 0x41, 0x42, 0x43, 0x03, 0x03, 0x8E⟩
     f.cmp.toNat ≠ 255 - f.seq.toNat ∧
       f.cks.toNat ≠ (f.p0.toNat + f.p1.toNat + f.p2.toNat + f.p3.toNat + f.p4.toNat) % 256) ∧
    (validating (Vector.replicate 9 0)).idx.val = 9 := by decide

theorem witness_ErrorClassesAreHandled :
    (let s := validating #v[0x01, 0x02, 0xFC, 0x48, 0x49, 0x21, 0x03, 0x03, 0xB8]
     let f : BlockFields := ⟨0x02, 0xFC, 0x48, 0x49, 0x21, 0x03, 0x03, 0xB8⟩
     holdsBlock f s = true ∧ complementOK f = false) ∧
    (let s := validating #v[0x01, 0x01, 0xFE, 0x41, 0x42, 0x43, 0x03, 0x03, 0xCD]
     let f : BlockFields := ⟨0x01, 0xFE, 0x41, 0x42, 0x43, 0x03, 0x03, 0xCD⟩
     holdsBlock f s = true ∧ complementOK f = true ∧ checksumOK f = false) ∧
    rxRead (awaiting [0x015]) = some (byteWord 0x15, consume 0x015 [] (awaiting [0x015])) ∧
    rxRead (reading 0 [0x100]) = some (failWord 0x00, consume 0x100 [] (reading 0 [0x100])) := by decide

theorem witness_FailureCarriesNoByte :
    (next? (step { awaiting [] with rx := failWord 0x04 :: [] })).isSome = true ∧
    (next? (step { awaiting [] with rx := failWord 0x01 :: [] })).isSome = true := by decide

theorem witness_ValidatingAnswersOnceAndRearms :
    (validating (Vector.replicate 9 0)).st = .validating ∧ (validating (Vector.replicate 9 0)).rst = false := by decide

theorem witness_TerminatedIsLeftOnlyByReset :
    ended.st = .terminated ∧ ended.rst = false ∧ ({ ended with rst := true }).rst = true ∧
    (next? (exec (.reset false) ended)).map (·.st) = some .idle := by decide

theorem witness_IdleWaitsForStart :
    State.reset.st = .idle ∧ State.reset.rst = false ∧ State.reset.start = false ∧
    ({ State.reset with start := true }).start = true := by decide

theorem witness_ReadWaitsForEver :
    Waiting (awaiting []) ∧ (awaiting []).rst = false ∧ Waiting (reading 5 []) ∧ (reading 5 []).rst = false :=
  ⟨⟨rfl, rfl⟩, rfl, ⟨rfl, rfl⟩, rfl⟩

theorem witness_HostEventsAtAnEdge :
    (let p : InPins := ⟨true, true, true, false, 0x01⟩; p.rst = true ∧ p.rxValid = true) ∧
    (let p : InPins := ⟨false, true, false, false, 0x00⟩; p.rst = false ∧ p.start = true ∧ State.reset.st = .idle) ∧
    ((awaiting []).st ≠ .idle ∧
      (next? (edge { (⟨false, false, true, false, 0x01⟩ : InPins) with start := false } (awaiting []))).isSome = true) := by
  decide

theorem witness_ReadAtAnEdge :
    Inv (reading 7 []) ∧ (restPins (reading 7 [])).rxReq = true ∧ Inv State.reset ∧
    (restPins State.reset).rxReq = false ∧
    (let p : InPins := ⟨false, false, true, true, 0x04⟩; p.rst = false ∧ p.rxValid = true ∧ p.rxErr = true) ∧
    (let p : InPins := ⟨false, false, false, false, 0x04⟩; p.rst = false ∧ p.rxValid = false ∧ p.rxErr = false) :=
  ⟨reading_inv _ _, rfl, reset_inv, rfl, by decide, by decide⟩

theorem witness_OutputsOfAState : stateOut ended = stateOut ended ∧ done ended = true := by decide

theorem witness_NoReadAhead :
    (next? (step { awaiting [] with rx := 0x001 :: [0x004] })).map (·.rx) = some [0x004] := by decide

/-- Also for HistoriesOnlyGrow. -/
theorem witness_OrderOfPortActivity :
    (validating #v[0x01, 0x01, 0xFE, 0x41, 0x42, 0x43, 0x03, 0x03, 0xCC]).rst = false ∧
    (next? (step (validating #v[0x01, 0x01, 0xFE, 0x41, 0x42, 0x43, 0x03, 0x03, 0xCC]))).map (·.trace) =
      some [.tx 0x15, .pl 0x41, .pl 0x42, .pl 0x43, .tx 0x06] := by decide

/-- Also for StepKeepsTheBuffer, StepKeepsTheRecords and StepKeepsTheSessionShape: the step is RX_SOH. -/
theorem witness_StepKeepsTheInvariants :
    Inv (awaiting [0x001]) ∧ BufferHolds (awaiting [0x001]) ∧ TraceAgrees (awaiting [0x001]) ∧
    SessionShape (awaiting [0x001]) ∧ ∃ t, step (awaiting [0x001]) = .next t ∧ t.st = .readingBlock :=
  ⟨awaiting_inv _, by simp [BufferHolds, awaiting], ⟨rfl, rfl⟩,
    .inr ⟨[], by simp, rfl, .inl ⟨rfl, rfl, rfl⟩⟩, _, rfl, rfl⟩

theorem witness_ReachableStatesAreGood : Reaches { State.reset with rst := true, start := true, rx := [0x001] } :=
  .environment _ true true [0x001] .reset

theorem witness_StaleBytesAreNeverRead :
    Inv (awaiting [0x001]) ∧ Inv { awaiting [0x001] with blk := Vector.replicate 9 0xFF, draws := 7 } ∧
    AgreeButStale (awaiting [0x001]) { awaiting [0x001] with blk := Vector.replicate 9 0xFF, draws := 7 } ∧
    ∃ t, step (awaiting [0x001]) = .next t := by
  refine ⟨awaiting_inv _, ?_, ?_, _, rfl⟩
  · constructor <;> simp [awaiting, State.reset]
  · simp [AgreeButStale, awaiting, State.reset]

theorem witness_AnyBlockIsAnsweredInTenSteps :
    (awaiting ((blockBytes ⟨0xC8, 0x37, 0x61, 0x61, 0x61, 0x61, 0x61, 0xE5⟩).map byteWord ++ [0x004])).st =
      .awaitingStart ∧
    (awaiting ((blockBytes ⟨0xC8, 0x37, 0x61, 0x61, 0x61, 0x61, 0x61, 0xE5⟩).map byteWord ++ [0x004])).rst = false ∧
    (awaiting ((blockBytes ⟨0xC8, 0x37, 0x61, 0x61, 0x61, 0x61, 0x61, 0xE5⟩).map byteWord ++ [0x004])).rx =
      (blockBytes ⟨0xC8, 0x37, 0x61, 0x61, 0x61, 0x61, 0x61, 0xE5⟩).map byteWord ++ [0x004] := by decide

end Sys2Proof.Tests
end

section
/-! ### State rules of the accepted block, and the step in one equation per case -/

namespace Sys2Proof.Machine

section acceptBlock
variable (f : BlockFields) (s : State)
@[simp] theorem acceptBlock_st : (acceptBlock f s).st = .awaitingStart := rfl
@[simp] theorem acceptBlock_idx : (acceptBlock f s).idx = 0 := rfl
@[simp] theorem acceptBlock_blk : (acceptBlock f s).blk = s.blk := by simp [acceptBlock_eq]
@[simp] theorem acceptBlock_msg : (acceptBlock f s).msg = s.msg ++ padFilter (payload f) := by simp [acceptBlock_eq]
@[simp] theorem acceptBlock_txlog : (acceptBlock f s).txlog = s.txlog ++ [Config.ack] := by simp [acceptBlock_eq]
@[simp] theorem acceptBlock_rx : (acceptBlock f s).rx = s.rx := by simp [acceptBlock_eq]
@[simp] theorem acceptBlock_rst : (acceptBlock f s).rst = s.rst := by simp [acceptBlock_eq]
@[simp] theorem acceptBlock_start : (acceptBlock f s).start = s.start := by simp [acceptBlock_eq]
@[simp] theorem acceptBlock_trace : (acceptBlock f s).trace =
    s.trace ++ ((padFilter (payload f)).map PortEvent.pl ++ [PortEvent.tx Config.ack]) := by simp [acceptBlock_eq]
@[simp] theorem acceptBlock_draws : (acceptBlock f s).draws = s.draws := by simp [acceptBlock_eq]
end acceptBlock

variable {s t : State} {i : Instr}

theorem step_eq_exec (hf : fetch s = some i) : step s = exec i s := by simp [step, hf]

theorem step_eq_self (hf : fetch s = none) : step s = .next s := by simp [step, hf]

theorem step_total (s : State) : ∃ t, step s = .next t := by
  cases hf : fetch s with
  | none => exact ⟨s, step_eq_self hf⟩
  | some i => exact step_eq_exec hf ▸ exec_total i s

/-- While `rst` is 1 the step is RESET (R30). -/
theorem step_of_rst (h : s.rst = true) : step s = .next (resetAll s) :=
  step_eq_exec (fetch_reset_iff.mpr ⟨h, rfl⟩)

/-! ### The port activity of a step, and the records of it -/

/-- `t` is `s` after this port activity: these results read, then these bytes appended, then these bytes written. -/
def Performs (s t : State) (reads : List RxWord) (appends writes : List Byte) : Prop :=
  t.trace = s.trace ++ (reads.map PortEvent.rx ++ appends.map PortEvent.pl ++ writes.map PortEvent.tx) ∧
  s.rx = reads ++ t.rx ∧ t.msg = s.msg ++ appends ∧ t.txlog = s.txlog ++ writes

theorem performs_nothing (s : State) : Performs s s [] [] [] := by simp [Performs]

/-- The port activity of every operation but RESET (R31, R45): at most one read, five appends, one write. -/
theorem Transition.performs (ht : Transition s i t) (hi : ∀ b, i ≠ .reset b) :
    ∃ reads appends writes, Performs s t reads appends writes ∧
      reads.length ≤ 1 ∧ appends.length ≤ 5 ∧ writes.length ≤ 1 := by
  cases ht with
  | reset b => exact absurd rfl (hi b)
  | start h => exact ⟨[], [], [Config.nak], by simp [Performs]⟩
  | rxFail d rest h hr => exact ⟨[failWord d], [], [], by simp [Performs, hr]⟩
  | rxEot rest h hr => exact ⟨[byteWord Config.eot], [], [Config.ack], by simp [Performs, hr]⟩
  | rxSoh rest h hr => exact ⟨[byteWord Config.soh], [], [], by simp [Performs, hr]⟩
  | rxSkip d rest h hd hd' hr => exact ⟨[byteWord d], [], [], by simp [Performs, hr]⟩
  | rxBody d rest h hlt hr => exact ⟨[byteWord d], [], [], by simp [Performs, hr]⟩
  | vRejectCmp h hc => exact ⟨[], [], [Config.nak], by simp [Performs]⟩
  | vRejectSum h hc hk => exact ⟨[], [], [Config.nak], by simp [Performs]⟩
  | vAccept h hv =>
    exact ⟨[], padFilter (payload (bufferFields s.blk)), [Config.ack], by
      simp [Performs, padFilter_payload_length]⟩
  | plDrop h => exact ⟨[], [], [], by simp [Performs]⟩
  | plKeep v h hv => exact ⟨[], [v], [], by simp [Performs]⟩
  | txAck h => exact ⟨[], [], [Config.ack], by simp [Performs]⟩
  | txNak h => exact ⟨[], [], [Config.nak], by simp [Performs]⟩

/-- A step without `rst` is not RESET, so its port activity is that of the operation it runs, if any. -/
theorem step_performs (hrst : s.rst = false) (h : step s = .next t) :
    ∃ reads appends writes, Performs s t reads appends writes ∧
      reads.length ≤ 1 ∧ appends.length ≤ 5 ∧ writes.length ≤ 1 := by
  obtain rfl | ⟨i, hf, -, ht⟩ := step_next h
  · exact ⟨[], [], [], performs_nothing _, by simp⟩
  · refine ht.performs fun b hb => ?_
    have := (fetch_reset_iff.mp (hb ▸ hf)).1
    simp [hrst] at this

/-- The records of the two output ports follow any port activity (R17, R18). -/
theorem TraceAgrees.of_performs {reads : List RxWord} {appends writes : List Byte}
    (h : TraceAgrees s) (hp : Performs s t reads appends writes) : TraceAgrees t := by
  obtain ⟨htx, hpl⟩ := h
  obtain ⟨htrace, -, hmsg, htxlog⟩ := hp
  constructor
  · simp [htrace, htxlog, htx, List.filterMap_map, Function.comp_def]
  · simp [htrace, hmsg, hpl, List.filterMap_map, Function.comp_def]

theorem traceAgrees_resetAll (s : State) : TraceAgrees (resetAll s) := by simp [TraceAgrees]

/-- The reads done follow any port activity. -/
theorem readsDone_of_performs {reads : List RxWord} {appends writes : List Byte}
    (hp : Performs s t reads appends writes) : readsDone t = readsDone s ++ reads := by
  simp [readsDone, hp.1, List.filterMap_map, Function.comp_def]

/-- The step's records are those of its port activity, and RESET begins all three histories anew. -/
theorem step_traceAgrees (h : TraceAgrees s) (hstep : step s = .next t) : TraceAgrees t := by
  obtain hrst | hrst := Bool.eq_false_or_eq_true s.rst
  · cases (step_of_rst hrst).symm.trans hstep
    exact traceAgrees_resetAll s
  · obtain ⟨_, _, _, hp, -⟩ := step_performs hrst hstep
    exact h.of_performs hp

end Sys2Proof.Machine
end

section
/-! ### The invariants of R23, operation by operation -/

namespace Sys2Proof.Machine

variable {s t : State} {i : Instr}

/-- `Inv` speaks of the five elements only. -/
theorem Inv.of_same_elements (h : Inv s) (hst : t.st = s.st) (hidx : t.idx = s.idx) (hblk : t.blk = s.blk)
    (hmsg : t.msg = s.msg) (htx : t.txlog = s.txlog) : Inv t where
  idx_zero := by rw [hst, hidx]; exact h.idx_zero
  reading := by rw [hst, hidx, hblk]; exact h.reading
  validating := by rw [hst, hidx, hblk]; exact h.validating
  idle_iff := by rw [hst, htx]; exact h.idle_iff
  ready_nak := by rw [hst, htx]; exact h.ready_nak
  tx_bytes := by rw [htx]; exact h.tx_bytes
  no_pad := by rw [hmsg]; exact h.no_pad
  msg_bound := by rw [hmsg, htx]; exact h.msg_bound
  idle_msg := by rw [hst, hmsg]; exact h.idle_msg

theorem Inv.consume (h : Inv s) (w : RxWord) (rest : List RxWord) : Inv (consume w rest s) :=
  h.of_same_elements rfl rfl rfl rfl rfl

/-- Outside Idle the ready NAK has been written, so TXLOG is not empty. -/
theorem Inv.txlog_ne_nil (h : Inv s) (hst : s.st ≠ .idle) : s.txlog ≠ [] := fun hn => hst (h.idle_iff.mpr hn)

theorem inv_resetAll (s : State) : Inv (resetAll s) := by constructor <;> simp

theorem inv_reset : Inv State.reset := by constructor <;> simp [State.reset]

theorem Inv.sendReady (h : Inv s) (hst : s.st = .idle) : Inv (sendReady s) := by
  have htx : s.txlog = [] := h.idle_iff.mp hst
  have hmsg : s.msg = [] := h.idle_msg hst
  have hidx := h.idx_zero (.inl hst)
  constructor <;> simp [htx, hmsg, hidx]

/-- A move to another value of ST, not Idle, that leaves both histories alone: what is left to show is about IDX and
BLK[0]. -/
theorem Inv.of_same_histories (h : Inv s) (hs : s.st ≠ .idle) (ht : t.st ≠ .idle) (hmsg : t.msg = s.msg)
    (htx : t.txlog = s.txlog)
    (hzero : t.st = .awaitingStart ∨ t.st = .terminated → t.idx.val = 0)
    (hreading : t.st = .readingBlock → 1 ≤ t.idx.val ∧ t.idx.val ≤ 8 ∧ t.blk[0] = 0x01)
    (hvalidating : t.st = .validating → t.idx.val = 9 ∧ t.blk[0] = 0x01) : Inv t where
  idx_zero h := hzero (h.resolve_left ht)
  reading := hreading
  validating := hvalidating
  idle_iff := by simp [ht, htx, h.txlog_ne_nil hs]
  ready_nak _ := htx ▸ h.ready_nak hs
  tx_bytes := htx ▸ h.tx_bytes
  no_pad := hmsg ▸ h.no_pad
  msg_bound := by rw [hmsg, htx]; exact h.msg_bound
  idle_msg h := absurd h ht

/-- Appending kept bytes and writing one answer, on the way to a state with IDX 0 that is not Idle. -/
theorem Inv.of_answer {kept : List Byte} {b : Byte} (h : Inv s) (hs : s.st ≠ .idle)
    (ht : t.st = .awaitingStart ∨ t.st = .terminated) (hidx : t.idx.val = 0)
    (hmsg : t.msg = s.msg ++ kept) (htx : t.txlog = s.txlog ++ [b]) (hb : b = 0x06 ∨ b = 0x15)
    (hpad : ∀ v ∈ kept, v ≠ 0x03) (hlen : kept.length ≤ 5 * [b].count 0x06) : Inv t where
  idx_zero _ := hidx
  reading h := by simp [h] at ht
  validating h := by simp [h] at ht
  idle_iff := by rcases ht with ht | ht <;> simp [ht, htx]
  ready_nak _ := by simp [htx, h.ready_nak hs]
  tx_bytes v hv := by
    rw [htx, List.mem_append, List.mem_singleton] at hv
    rcases hv with hv | rfl
    · exact h.tx_bytes v hv
    · exact hb
  no_pad v hv := by
    rw [hmsg, List.mem_append] at hv
    exact hv.elim (h.no_pad v) (hpad v)
  msg_bound := by
    have := h.msg_bound
    rw [hmsg, htx, List.length_append, List.count_append]
    omega
  idle_msg h := by simp [h] at ht

theorem Inv.abandon (h : Inv s) (hst : s.st ≠ .idle) : Inv (abandon s) :=
  h.of_same_histories hst (by simp) rfl rfl (by simp) (by simp) (by simp)

theorem Inv.storeMarker (h : Inv s) (hst : s.st ≠ .idle) : Inv (storeMarker s) :=
  h.of_same_histories hst (by simp) rfl rfl (by simp) (by simp) (by simp)

theorem Inv.storeBody (h : Inv s) (b : Byte) (hst : s.st = .readingBlock) : Inv (storeBody b s) := by
  obtain ⟨hlo, hhi, hsoh⟩ := h.reading hst
  have hlt : s.idx.val < 9 := by omega
  have hsoh' : (Machine.storeBody b s).blk[0] = 0x01 := by
    rw [← hsoh]; simp only [storeBody_blk b s hlt]; exact Vector.getElem_set_ne _ _ (by omega)
  have hst' : (Machine.storeBody b s).st = if s.idx.val = 8 then .validating else .readingBlock := by
    simp [storeBody_st b s hlt, hst]
  refine h.of_same_histories (by simp [hst]) ?_ (by simp) (by simp) ?_ ?_ ?_ <;>
    rw [hst'] <;> split <;> simp [storeBody_idx b s hlt, hsoh'] <;> omega

theorem Inv.confirmEnd (h : Inv s) (hst : s.st = .awaitingStart) : Inv (confirmEnd s) :=
  h.of_answer (kept := []) (by simp [hst]) (.inr rfl) (h.idx_zero (.inr (.inl hst))) (by simp) rfl (.inl rfl) (by simp)
    (by simp)

theorem Inv.reject (h : Inv s) (hst : s.st ≠ .idle) : Inv (rearm (txWrite Config.nak s)) :=
  h.of_answer (kept := []) hst (.inl rfl) rfl (by simp) rfl (.inr rfl) (by simp) (by simp)

theorem Inv.acceptBlock (h : Inv s) (f : BlockFields) (hst : s.st ≠ .idle) : Inv (acceptBlock f s) :=
  h.of_answer hst (.inl rfl) rfl (acceptBlock_msg f s) (acceptBlock_txlog f s) (.inl rfl)
    (fun _ hv => (mem_padFilter.mp hv).2) (by simpa using padFilter_payload_length f)

/-- Every operation that a step can run keeps the invariants. Of the four that run inside another, two do not
alone: TX_NAK in Idle leaves TXLOG not empty there, and PL_KEEP appends without an ACK. -/
theorem Transition.inv (ht : Transition s i t) (hi : Instr.isStep i = true) (h : Inv s) : Inv t := by
  cases ht with
  | reset b => exact inv_resetAll s
  | start hst => exact h.sendReady hst
  | rxFail d rest hst hr => exact (h.consume _ _).abandon (by rcases hst with hst | hst <;> simp [hst])
  | rxEot rest hst hr => exact (h.consume _ _).confirmEnd hst
  | rxSoh rest hst hr => exact (h.consume _ _).storeMarker (by simp [hst])
  | rxSkip d rest hst hd hd' hr => exact h.consume _ _
  | rxBody d rest hst hlt hr => exact (h.consume _ _).storeBody d hst
  | vRejectCmp hst hc => exact h.reject (by simp [hst])
  | vRejectSum hst hc hk => exact h.reject (by simp [hst])
  | vAccept hst hv => exact h.acceptBlock _ (by simp [hst])
  | plDrop hst => exact h
  | plKeep v hst hv => cases hi
  | txAck hst => cases hi
  | txNak hst => cases hi

theorem step_inv (h : Inv s) (hstep : step s = .next t) : Inv t := by
  obtain rfl | ⟨i, -, hi, ht⟩ := step_next hstep
  · exact h
  · exact ht.inv hi h

end Sys2Proof.Machine
end

section
/-! ### The bytes of the block in progress, and the two invariants that speak of the reads -/

namespace Sys2Proof.Machine

variable {s t : State} {i : Instr}

/-- The bytes of the block in progress: BLK[0] to BLK[IDX-1] (R15, R16). -/
def held (s : State) : List Byte := s.blk.toList.take s.idx.val

@[simp] theorem held_consume (w : RxWord) (rest : List RxWord) (s : State) : held (consume w rest s) = held s := rfl

@[simp] theorem held_storeMarker (s : State) : held (storeMarker s) = [Config.soh] :=
  (take_set_succ s.blk 0 Config.soh (by decide)).trans (by simp)

theorem held_storeBody (b : Byte) (s : State) (h : s.idx.val < 9) : held (storeBody b s) = held s ++ [b] := by
  simp only [held, storeBody_idx b s h, storeBody_blk b s h]
  exact take_set_succ s.blk s.idx.val b h

/-- In Validating the bytes held are the completed block (R39). -/
theorem held_of_validating (h : Inv s) (hst : s.st = .validating) : held s = blockBytes (bufferFields s.blk) := by
  obtain ⟨hidx, hsoh⟩ := h.validating hst
  rw [← toList_eq_blockBytes s.blk hsoh, held, hidx]
  exact List.take_of_length_le (by simp)

/-- In ReadingBlock one to eight bytes are held, the first of them the marker. -/
theorem held_of_reading (h : Inv s) (hst : s.st = .readingBlock) :
    (held s).length ≤ 8 ∧ (held s).head? = some 0x01 := by
  obtain ⟨hlo, hhi, hsoh⟩ := h.reading hst
  refine ⟨by simp [held]; omega, ?_⟩
  rw [held, List.head?_take, if_neg (by omega), List.head?_eq_getElem?]
  simpa using hsoh

/-! ### R23 item 4 -/

theorem bufferHolds_iff : BufferHolds s ↔
    (s.st = .readingBlock ∨ s.st = .validating →
      ∃ before, s.trace = before ++ (held s).map (fun b => PortEvent.rx (byteWord b))) := Iff.rfl

/-- Item 4 says nothing outside ReadingBlock and Validating. -/
theorem bufferHolds_of_other (h : t.st ≠ .readingBlock) (h' : t.st ≠ .validating) : BufferHolds t :=
  fun hst => (hst.elim h h').elim

/-- Only RX_SOH and RX_BODY lead to a state of which item 4 says something; the one begins the record of a block, the
other extends it. -/
theorem Transition.bufferHolds (ht : Transition s i t) (hi : Instr.isStep i = true) (h : BufferHolds s) :
    BufferHolds t := by
  cases ht with
  | reset b => exact bufferHolds_of_other (by simp) (by simp)
  | start hst => exact bufferHolds_of_other (by simp) (by simp)
  | rxFail d rest hst hr => exact bufferHolds_of_other (by simp) (by simp)
  | rxEot rest hst hr => exact bufferHolds_of_other (by simp) (by simp)
  | rxSoh rest hst hr => exact bufferHolds_iff.mpr fun _ => ⟨s.trace, by simp⟩
  | rxSkip d rest hst hd hd' hr => exact bufferHolds_of_other (by simp [hst]) (by simp [hst])
  | rxBody d rest hst hlt hr =>
    obtain ⟨before, hb⟩ := bufferHolds_iff.mp h (.inl hst)
    have hheld := held_storeBody d (consume (byteWord d) rest s) hlt
    exact bufferHolds_iff.mpr fun _ => ⟨before, by simp [hheld, hb]⟩
  | vRejectCmp hst hc => exact bufferHolds_of_other (by simp) (by simp)
  | vRejectSum hst hc hk => exact bufferHolds_of_other (by simp) (by simp)
  | vAccept hst hv => exact bufferHolds_of_other (by simp) (by simp)
  | plDrop hst => exact h
  | plKeep v hst hv => cases hi
  | txAck hst => cases hi
  | txNak hst => cases hi

theorem step_bufferHolds (h : BufferHolds s) (hstep : step s = .next t) : BufferHolds t := by
  obtain rfl | ⟨i, -, hi, ht⟩ := step_next hstep
  · exact h
  · exact ht.bufferHolds hi h

/-! ### The shape of a session (R71, R96, R98) -/

/-- What a session has done so far: these pieces completed, these results read beyond them, these bytes written beyond
their answers. -/
def Received (segs : List Segment) (reads : List RxWord) (writes : List Byte) (s : State) : Prop :=
  (∀ g ∈ segs, g.ok = true) ∧ s.msg = segs.flatMap Segment.kept ∧
  readsDone s = segs.flatMap Segment.words ++ reads ∧ s.txlog = 0x15 :: segs.flatMap Segment.answer ++ writes

variable {segs : List Segment} {reads : List RxWord} {writes : List Byte}

/-- More reads and more writes, with nothing appended, are beyond the pieces completed. -/
theorem Received.extend (h : Received segs reads writes s) {reads' : List RxWord} {writes' : List Byte}
    (hp : Performs s t reads' [] writes') : Received segs (reads ++ reads') (writes ++ writes') t := by
  obtain ⟨hok, hmsg, hreads, htx⟩ := h
  have hr := readsDone_of_performs hp
  obtain ⟨-, -, hmsg', htx'⟩ := hp
  exact ⟨hok, by simp [hmsg', hmsg], by simp [hr, hreads], by simp [htx', htx]⟩

/-- What is read, appended and written for a piece completes it. -/
theorem Received.complete (h : Received segs reads [] s) {g : Segment} (hg : g.ok = true) {reads' : List RxWord}
    (hwords : reads ++ reads' = g.words) (hp : Performs s t reads' g.kept g.answer) :
    Received (segs ++ [g]) [] [] t := by
  obtain ⟨hok, hmsg, hreads, htx⟩ := h
  have hr := readsDone_of_performs hp
  obtain ⟨-, -, hmsg', htx'⟩ := hp
  refine ⟨?_, by simp [hmsg', hmsg], by simp [hr, hreads, hwords], by simp [htx', htx]⟩
  intro g' hg'
  rw [List.mem_append, List.mem_singleton] at hg'
  rcases hg' with hg' | rfl
  · exact hok g' hg'
  · exact hg

/-! The shape, value of ST by value of ST. -/

theorem SessionShape.of_idle (h : SessionShape s) (hst : s.st = .idle) :
    readsDone s = [] ∧ s.txlog = [] ∧ s.msg = [] := by
  obtain ⟨-, h⟩ | ⟨segs, -, -, ⟨h, -⟩ | ⟨h, -⟩ | ⟨h, -⟩ | ⟨h, -⟩⟩ := h <;> simp_all

theorem SessionShape.of_awaitingStart (h : SessionShape s) (hst : s.st = .awaitingStart) :
    ∃ segs, Received segs [] [] s := by
  obtain ⟨h, -⟩ | ⟨segs, hok, hmsg, ⟨-, hr, htx⟩ | ⟨h, -⟩ | ⟨h, -⟩ | ⟨h, -⟩⟩ := h
  · simp [hst] at h
  · exact ⟨segs, hok, hmsg, by simpa using hr, by simpa using htx⟩
  all_goals simp [hst] at h

theorem SessionShape.of_inBlock (h : SessionShape s) (hst : s.st = .readingBlock ∨ s.st = .validating) :
    ∃ segs, Received segs ((held s).map byteWord) [] s := by
  obtain ⟨h, -⟩ | ⟨segs, hok, hmsg, ⟨h, -⟩ | ⟨-, hr, htx⟩ | ⟨h, -⟩ | ⟨h, -⟩⟩ := h
  · simp [h] at hst
  · simp [h] at hst
  · exact ⟨segs, hok, hmsg, hr, by simpa using htx⟩
  all_goals simp [h] at hst

theorem Received.awaitingStart (h : Received segs [] [] s) (hst : s.st = .awaitingStart) : SessionShape s := by
  obtain ⟨hok, hmsg, hr, htx⟩ := h
  exact .inr ⟨segs, hok, hmsg, .inl ⟨hst, by simpa using hr, by simpa using htx⟩⟩

theorem Received.inBlock (h : Received segs ((held s).map byteWord) [] s)
    (hst : s.st = .readingBlock ∨ s.st = .validating) : SessionShape s := by
  obtain ⟨hok, hmsg, hr, htx⟩ := h
  exact .inr ⟨segs, hok, hmsg, .inr (.inl ⟨hst, hr, by simpa using htx⟩)⟩

theorem Received.endedByEot (h : Received segs [byteWord 0x04] [0x06] s) (hst : s.st = .terminated) :
    SessionShape s := by
  obtain ⟨hok, hmsg, hr, htx⟩ := h
  exact .inr ⟨segs, hok, hmsg, .inr (.inr (.inl ⟨hst, hr, htx⟩))⟩

theorem Received.endedByFail {part : List Byte} {d : Byte}
    (h : Received segs (part.map byteWord ++ [failWord d]) [] s) (hlen : part.length ≤ 8)
    (hhead : part = [] ∨ part.head? = some 0x01) (hst : s.st = .terminated) : SessionShape s := by
  obtain ⟨hok, hmsg, hr, htx⟩ := h
  exact .inr ⟨segs, hok, hmsg, .inr (.inr (.inr
    ⟨hst, ⟨part, d, hlen, hhead, by simpa using hr⟩, by simpa using htx⟩))⟩

/-- A completed block is answered by NAK when it is not valid. -/
theorem performs_reject (hv : blockValid (bufferFields s.blk) = false) :
    Performs s (rearm (txWrite Config.nak s)) [] (Segment.block (bufferFields s.blk)).kept
      (Segment.block (bufferFields s.blk)).answer := by
  simp [Performs, Segment.kept, Segment.answer, hv]

/-- A valid block contributes its filtered payload and is answered by ACK. -/
theorem performs_accept (hv : blockValid (bufferFields s.blk) = true) :
    Performs s (acceptBlock (bufferFields s.blk) s) [] (Segment.block (bufferFields s.blk)).kept
      (Segment.block (bufferFields s.blk)).answer := by
  simp [Performs, Segment.kept, Segment.answer, hv]

/-- The three validation outcomes complete the block in progress. -/
theorem SessionShape.of_blockAnswered (h : SessionShape s) (hinv : Inv s) (hst : s.st = .validating)
    (hp : Performs s t [] (Segment.block (bufferFields s.blk)).kept (Segment.block (bufferFields s.blk)).answer)
    (ht : t.st = .awaitingStart) : SessionShape t := by
  obtain ⟨segs, hr⟩ := h.of_inBlock (.inr hst)
  exact (hr.complete (g := .block (bufferFields s.blk)) rfl
    (by simp [held_of_validating hinv hst, Segment.words]) hp).awaitingStart ht

theorem SessionShape.sendReady (h : SessionShape s) (hst : s.st = .idle) : SessionShape (sendReady s) := by
  obtain ⟨hr, htx, hmsg⟩ := h.of_idle hst
  have : readsDone (Machine.sendReady s) = [] := by
    simpa [hr] using readsDone_of_performs (s := s) (t := Machine.sendReady s) (reads := []) (appends := [])
      (writes := [Config.nak]) (by simp [Performs])
  exact Received.awaitingStart (segs := []) ⟨by simp, by simp [hmsg], by simp [this], by simp [htx]⟩ rfl

/-- Every operation that a step can run keeps the shape of a session. -/
theorem Transition.sessionShape (ht : Transition s i t) (hi : Instr.isStep i = true) (hinv : Inv s)
    (h : SessionShape s) : SessionShape t := by
  cases ht with
  | reset b => exact .inl ⟨rfl, rfl, rfl, rfl⟩
  | start hst => exact h.sendReady hst
  | rxFail d rest hst hr =>
    have hp : Performs s (abandon (consume (failWord d) rest s)) [failWord d] [] [] := by simp [Performs, hr]
    rcases hst with hst | hst
    · obtain ⟨segs, hs⟩ := h.of_awaitingStart hst
      exact (hs.extend hp).endedByFail (part := []) (by simp) (.inl rfl) rfl
    · obtain ⟨segs, hs⟩ := h.of_inBlock (.inl hst)
      obtain ⟨hlen, hhead⟩ := held_of_reading hinv hst
      exact (hs.extend hp).endedByFail hlen (.inr hhead) rfl
  | rxEot rest hst hr =>
    obtain ⟨segs, hs⟩ := h.of_awaitingStart hst
    exact (hs.extend (reads' := [byteWord Config.eot]) (writes' := [Config.ack]) (by simp [Performs, hr])).endedByEot rfl
  | rxSoh rest hst hr =>
    obtain ⟨segs, hs⟩ := h.of_awaitingStart hst
    refine Received.inBlock (segs := segs) ?_ (.inl rfl)
    simpa using hs.extend (reads' := [byteWord Config.soh]) (writes' := []) (by simp [Performs, hr])
  | rxSkip d rest hst hd hd' hr =>
    obtain ⟨segs, hs⟩ := h.of_awaitingStart hst
    exact (hs.complete (g := .stray d) (reads' := [byteWord d]) (by simpa [Segment.ok] using ⟨hd, hd'⟩) rfl
      (by simp [Performs, hr, Segment.kept, Segment.answer])).awaitingStart hst
  | rxBody d rest hst hlt hr =>
    obtain ⟨segs, hs⟩ := h.of_inBlock (.inl hst)
    have hheld := held_storeBody d (consume (byteWord d) rest s) hlt
    refine Received.inBlock (segs := segs) ?_ ?_
    · simpa [hheld] using hs.extend (t := storeBody d (consume (byteWord d) rest s)) (reads' := [byteWord d])
        (writes' := []) (by simp [Performs, hr])
    · rw [storeBody_st d (consume (byteWord d) rest s) hlt]
      split <;> simp [hst]
  | vRejectCmp hst hc => exact h.of_blockAnswered hinv hst (performs_reject (by simp [blockValid, hc])) rfl
  | vRejectSum hst hc hk => exact h.of_blockAnswered hinv hst (performs_reject (by simp [blockValid, hk])) rfl
  | vAccept hst hv => exact h.of_blockAnswered hinv hst (performs_accept hv) rfl
  | plDrop hst => exact h
  | plKeep v hst hv => cases hi
  | txAck hst => cases hi
  | txNak hst => cases hi

theorem step_sessionShape (hinv : Inv s) (h : SessionShape s) (hstep : step s = .next t) : SessionShape t := by
  obtain rfl | ⟨i, -, hi, ht⟩ := step_next hstep
  · exact h
  · exact ht.sessionShape hi hinv h

/-! ### The state after reset -/

theorem bufferHolds_reset : BufferHolds State.reset := bufferHolds_of_other (by decide) (by decide)

theorem traceAgrees_reset : TraceAgrees State.reset := ⟨rfl, rfl⟩

theorem sessionShape_reset : SessionShape State.reset := .inl ⟨rfl, rfl, rfl, rfl⟩

/-- What every reachable state meets: the four invariants together. -/
structure Good (s : State) : Prop where
  inv : Inv s
  buffer : BufferHolds s
  records : TraceAgrees s
  session : SessionShape s

theorem good_reset : Good State.reset := ⟨inv_reset, bufferHolds_reset, traceAgrees_reset, sessionShape_reset⟩

theorem Good.step (h : Good s) (hstep : step s = .next t) : Good t where
  inv := step_inv h.inv hstep
  buffer := step_bufferHolds h.buffer hstep
  records := step_traceAgrees h.records hstep
  session := step_sessionShape h.inv h.session hstep

/-- None of the four looks at what the environment presents. -/
theorem Good.environment (h : Good s) (rst start : Bool) (rx : List RxWord) :
    Good { s with rst := rst, start := start, rx := rx } :=
  ⟨h.inv.of_same_elements rfl rfl rfl rfl rfl, h.buffer, h.records, h.session⟩

theorem Reaches.good (h : Reaches s) : Good s := by
  induction h with
  | reset => exact good_reset
  | step s t _ hstep ih => exact ih.step hstep
  | environment s rst start rx _ ih => exact ih.environment rst start rx

end Sys2Proof.Machine
end

section
/-! ### Two runs of one operation -/

namespace Sys2Proof.Machine

variable {s s' t : State} {i : Instr}

/-- An operation takes two related states to two related states if each of its effects in the one state has its like in
the other: where it is enabled in neither, both states stay as they are. -/
theorem exec_related {R : State → State → Prop} (hR : R s s')
    (hto : ∀ t, Transition s i t → ∃ t', Transition s' i t' ∧ R t t')
    (hfrom : ∀ t', Transition s' i t' → ∃ t, Transition s i t ∧ R t t')
    (h : exec i s = .next t) : ∃ t', exec i s' = .next t' ∧ R t t' := by
  obtain rfl | ht := exec_next h
  · obtain ⟨t', h'⟩ := exec_total i s'
    obtain rfl | ht' := exec_next h'
    · exact ⟨_, h', hR⟩
    · obtain ⟨t₂, ht₂, hR₂⟩ := hfrom t' ht'
      cases h.symm.trans (exec_of_transition ht₂)
      exact ⟨t', h', hR₂⟩
  · obtain ⟨t', ht', hR'⟩ := hto t ht
    exact ⟨t', exec_of_transition ht', hR'⟩

/-- So does a step, if both states select the same operation. -/
theorem step_related {R : State → State → Prop} (hR : R s s') (hf : fetch s' = fetch s)
    (hto : ∀ i t, Transition s i t → ∃ t', Transition s' i t' ∧ R t t')
    (hfrom : ∀ i t', Transition s' i t' → ∃ t, Transition s i t ∧ R t t')
    (h : step s = .next t) : ∃ t', step s' = .next t' ∧ R t t' := by
  cases hi : fetch s with
  | none =>
    cases (step_eq_self hi).symm.trans h
    exact ⟨s', step_eq_self (hf.trans hi), hR⟩
  | some i =>
    rw [step_eq_exec (hf.trans hi)]
    exact exec_related hR (hto i) (hfrom i) (step_eq_exec hi ▸ h)

/-! ### Stale bytes of BLK (R16, R24) -/

theorem AgreeButStale.symm (h : AgreeButStale s s') : AgreeButStale s' s := by
  obtain ⟨hst, hidx, hmsg, htx, hrx, hrst, hstart, htrace, hblk⟩ := h
  exact ⟨hst.symm, hidx.symm, hmsg.symm, htx.symm, hrx.symm, hrst.symm, hstart.symm, htrace.symm,
    fun i h9 hi => (hblk i h9 (hidx ▸ hi)).symm⟩

/-- With all nine bytes stored nothing of BLK is stale. -/
theorem AgreeButStale.blk_eq (h : AgreeButStale s s') (h9 : s.idx.val = 9) : s.blk = s'.blk := by
  obtain ⟨-, -, -, -, -, -, -, -, hblk⟩ := h
  exact Vector.ext fun i hi => hblk i hi (h9 ▸ hi)

theorem AgreeButStale.consume (h : AgreeButStale s s') (w : RxWord) (rest : List RxWord) :
    AgreeButStale (consume w rest s) (consume w rest s') := by
  obtain ⟨hst, hidx, hmsg, htx, -, hrst, hstart, htrace, hblk⟩ := h
  exact ⟨hst, hidx, hmsg, htx, rfl, hrst, hstart, by simp [htrace], hblk⟩

theorem AgreeButStale.txWrite (h : AgreeButStale s s') (b : Byte) : AgreeButStale (txWrite b s) (txWrite b s') := by
  obtain ⟨hst, hidx, hmsg, htx, hrx, hrst, hstart, htrace, hblk⟩ := h
  exact ⟨hst, hidx, hmsg, by simp [htx], hrx, hrst, hstart, by simp [htrace], hblk⟩

theorem AgreeButStale.msgAppend (h : AgreeButStale s s') (v : Byte) :
    AgreeButStale (msgAppend v s) (msgAppend v s') := by
  obtain ⟨hst, hidx, hmsg, htx, hrx, hrst, hstart, htrace, hblk⟩ := h
  exact ⟨hst, hidx, by simp [hmsg], htx, hrx, hrst, hstart, by simp [htrace], hblk⟩

theorem AgreeButStale.setSt (h : AgreeButStale s s') (st : St) :
    AgreeButStale { s with st := st } { s' with st := st } := by
  obtain ⟨-, h⟩ := h
  exact ⟨rfl, h⟩

/-- At IDX 0 every byte of BLK is stale. -/
theorem AgreeButStale.clearIdx (h : AgreeButStale s s') : AgreeButStale { s with idx := 0 } { s' with idx := 0 } := by
  obtain ⟨hst, -, hmsg, htx, hrx, hrst, hstart, htrace, -⟩ := h
  exact ⟨hst, rfl, hmsg, htx, hrx, hrst, hstart, htrace, fun _ _ hi => absurd hi (Nat.not_lt_zero _)⟩

theorem AgreeButStale.resetAll (h : AgreeButStale s s') : AgreeButStale (resetAll s) (resetAll s') := by
  obtain ⟨-, -, -, -, hrx, hrst, hstart, -, -⟩ := h
  exact ⟨rfl, rfl, rfl, rfl, hrx, hrst, hstart, rfl, fun _ _ hi => absurd hi (Nat.not_lt_zero _)⟩

theorem AgreeButStale.acceptBlock (h : AgreeButStale s s') (f : BlockFields) :
    AgreeButStale (acceptBlock f s) (acceptBlock f s') := by
  have hfold (p : List Byte) : AgreeButStale (p.foldl filterByte s) (p.foldl filterByte s') := by
    induction p generalizing s s' with
    | nil => exact h
    | cons b p ih =>
      refine ih ?_
      unfold filterByte
      split
      · exact h
      · exact h.msgAppend b
  exact (((hfold _).txWrite _).clearIdx).setSt _

/-- The marker is stored over whatever was stale. -/
theorem AgreeButStale.storeMarker (h : AgreeButStale s s') : AgreeButStale (storeMarker s) (storeMarker s') := by
  obtain ⟨hst, hidx, hmsg, htx, hrx, hrst, hstart, htrace, hblk⟩ := h
  refine ⟨rfl, rfl, hmsg, htx, hrx, hrst, hstart, htrace, fun i h9 hi => ?_⟩
  obtain rfl : i = 0 := by simpa using hi
  simp

/-- A byte is stored over the first that may be stale. -/
theorem AgreeButStale.storeBody (h : AgreeButStale s s') (b : Byte) :
    AgreeButStale (storeBody b s) (storeBody b s') := by
  have hself := h
  obtain ⟨hst, hidx, hmsg, htx, hrx, hrst, hstart, htrace, hblk⟩ := h
  by_cases hlt : s.idx.val < 9
  · have hlt' : s'.idx.val < 9 := hidx ▸ hlt
    rw [storeBody_of_lt b s hlt, storeBody_of_lt b s' hlt']
    refine ⟨by simp [hst, hidx], by simp [hidx], hmsg, htx, hrx, hrst, hstart, htrace, fun i h9 hi => ?_⟩
    simp only [Vector.getElem_set, ← hidx]
    split
    · rfl
    · exact hblk i h9 (by simp at hi; omega)
  · have hlt' : ¬ s'.idx.val < 9 := hidx ▸ hlt
    simpa [Machine.storeBody, hlt, hlt'] using hself

/-- An operation makes the same of two states that differ in stale bytes only. -/
theorem AgreeButStale.transition (h : AgreeButStale s s') (hv : s.st = .validating → s.idx.val = 9)
    (ht : Transition s i t) : ∃ t', Transition s' i t' ∧ AgreeButStale t t' := by
  have hself := h
  have hblk9 : s.st = .validating → s.blk = s'.blk := fun hst => h.blk_eq (hv hst)
  obtain ⟨hst, hidx, -, -, hrx, -⟩ := h
  cases ht with
  | reset b => exact ⟨_, .reset s' b, hself.resetAll⟩
  | start h => exact ⟨_, .start s' (hst ▸ h), (hself.txWrite _).setSt _⟩
  | rxFail d rest h hr =>
    exact ⟨_, .rxFail s' d rest (hst ▸ h) (hrx ▸ hr), ((hself.consume _ _).clearIdx).setSt _⟩
  | rxEot rest h hr => exact ⟨_, .rxEot s' rest (hst ▸ h) (hrx ▸ hr), ((hself.consume _ _).txWrite _).setSt _⟩
  | rxSoh rest h hr => exact ⟨_, .rxSoh s' rest (hst ▸ h) (hrx ▸ hr), (hself.consume _ _).storeMarker⟩
  | rxSkip d rest h hd hd' hr => exact ⟨_, .rxSkip s' d rest (hst ▸ h) hd hd' (hrx ▸ hr), hself.consume _ _⟩
  | rxBody d rest h hlt hr =>
    exact ⟨_, .rxBody s' d rest (hst ▸ h) (hidx ▸ hlt) (hrx ▸ hr), (hself.consume _ _).storeBody d⟩
  | vRejectCmp h hc =>
    rw [hblk9 h] at hc ⊢
    exact ⟨_, .vRejectCmp s' (hst ▸ h) hc, ((hself.txWrite _).clearIdx).setSt _⟩
  | vRejectSum h hc hk =>
    rw [hblk9 h] at hc hk ⊢
    exact ⟨_, .vRejectSum s' (hst ▸ h) hc hk, ((hself.txWrite _).clearIdx).setSt _⟩
  | vAccept h hv =>
    rw [hblk9 h] at hv ⊢
    exact ⟨_, .vAccept s' (hst ▸ h) hv, hself.acceptBlock _⟩
  | plDrop h => exact ⟨_, .plDrop s' (hst ▸ h), hself⟩
  | plKeep v h hv => exact ⟨_, .plKeep s' v (hst ▸ h) hv, hself.msgAppend v⟩
  | txAck h => exact ⟨_, .txAck s' (hst ▸ h), hself.txWrite _⟩
  | txNak h => exact ⟨_, .txNak s' (hst ▸ h), hself.txWrite _⟩

/-- No stale byte enters into which operation is selected. -/
theorem AgreeButStale.fetch_eq (h : AgreeButStale s s') (hv : s.st = .validating → s.idx.val = 9) :
    fetch s = fetch s' := by
  have hblk9 : s.st = .validating → s.blk = s'.blk := fun hst => h.blk_eq (hv hst)
  obtain ⟨hst, -, -, -, hrx, hrst, hstart, -, -⟩ := h
  have hblock : fetchBlock s = fetchBlock s' := by
    unfold fetchBlock
    rw [← hst, ← hrx]
    split <;> simp_all
  rw [Machine.fetch_eq, Machine.fetch_eq, hst, hrst, hstart, hblock]

/-- A step makes the same of two states that differ in stale bytes only and meet the invariants: in Validating no byte
is stale. -/
theorem AgreeButStale.step (h : AgreeButStale s s') (hs : Inv s) (hs' : Inv s') (hstep : step s = .next t) :
    ∃ t', step s' = .next t' ∧ AgreeButStale t t' := by
  have hv (hst : s.st = .validating) := (hs.validating hst).1
  have hv' (hst : s'.st = .validating) := (hs'.validating hst).1
  refine step_related h (h.fetch_eq hv).symm (fun _ _ => h.transition hv) (fun i t' ht' => ?_) hstep
  obtain ⟨t, ht, hR⟩ := h.symm.transition hv' ht'
  exact ⟨t, ht, hR.symm⟩

end Sys2Proof.Machine
end

section
/-! ### The frame of every operation (R22): per element, the operations that write it -/

namespace Sys2Proof.Machine

variable {s s' t : State} {i : Instr}

theorem Transition.st_frame (ht : Transition s i t) :
    t.st = s.st ∨ (∃ b, i = .reset b) ∨ i = .start ∨ i = .rxSoh ∨ (∃ d, i = .rxBody d ∧ s.idx.val = 8) ∨ i = .rxEot ∨
      (∃ d, i = .rxFail d) ∨ (∃ f, i = .vRejectCmp f) ∨ (∃ f, i = .vRejectSum f) ∨ (∃ f, i = .vAccept f) := by
  cases ht with
  | rxBody d rest h hlt hr =>
    have hst := storeBody_st d (consume (byteWord d) rest s) hlt
    by_cases h8 : s.idx.val = 8
    · simp [h8]
    · exact .inl (by simpa [h8] using hst)
  | _ => simp

theorem Transition.idx_frame (ht : Transition s i t) :
    t.idx = s.idx ∨ (∃ b, i = .reset b) ∨ i = .rxSoh ∨ (∃ d, i = .rxBody d) ∨ (∃ d, i = .rxFail d) ∨
      (∃ f, i = .vRejectCmp f) ∨ (∃ f, i = .vRejectSum f) ∨ (∃ f, i = .vAccept f) := by
  cases ht <;> simp

/-- RESET, RX_SOH at 0 and RX_BODY at IDX write a byte of BLK, and nothing else does. -/
theorem Transition.blk_frame (ht : Transition s i t) (k : Nat) (hk : k < 9) :
    t.blk[k] = s.blk[k] ∨ (∃ b, i = .reset b) ∨ (i = .rxSoh ∧ k = 0) ∨
      ∃ d, i = .rxBody d ∧ s.st = .readingBlock ∧ s.idx.val = k := by
  cases ht with
  | rxSoh rest h hr =>
    by_cases h0 : k = 0
    · simp [h0]
    · exact .inl (Vector.getElem_set_ne (by decide) hk (Ne.symm h0))
  | rxBody d rest h hlt hr =>
    by_cases hi : s.idx.val = k
    · simp [h, hi]
    · refine .inl ?_
      simp only [storeBody_blk d (consume (byteWord d) rest s) hlt]
      exact Vector.getElem_set_ne _ _ hi
  | _ => simp

theorem Transition.msg_frame (ht : Transition s i t) :
    t.msg = s.msg ∨ (∃ b, i = .reset b) ∨ (∃ f, i = .vAccept f) ∨ ∃ v, i = .plKeep v := by
  cases ht <;> simp

theorem Transition.txlog_frame (ht : Transition s i t) :
    t.txlog = s.txlog ∨ (∃ b, i = .reset b) ∨ i = .start ∨ i = .rxEot ∨ (∃ f, i = .vRejectCmp f) ∨
      (∃ f, i = .vRejectSum f) ∨ (∃ f, i = .vAccept f) ∨ i = .txAck ∨ i = .txNak := by
  cases ht <;> simp

theorem Transition.rx_frame (ht : Transition s i t) :
    t.rx = s.rx ∨ i = .rxSoh ∨ (∃ d, i = .rxSkip d) ∨ (∃ d, i = .rxBody d) ∨ i = .rxEot ∨ ∃ d, i = .rxFail d := by
  cases ht <;> simp

/-- No operation writes the host's inputs. -/
theorem Transition.host_inputs (ht : Transition s i t) : t.rst = s.rst ∧ t.start = s.start := by
  cases ht <;> simp

theorem Transition.draws_frame (ht : Transition s i t) : t.draws = s.draws ∨ ∃ b, i = .reset b := by
  cases ht <;> simp

theorem Transition.trace_frame (ht : Transition s i t) :
    (∃ more, t.trace = s.trace ++ more) ∨ ∃ b, i = .reset b := by
  by_cases hi : ∃ b, i = .reset b
  · exact .inr hi
  · obtain ⟨_, _, _, ⟨htrace, -⟩, -⟩ := ht.performs fun b hb => hi ⟨b, hb⟩
    exact .inl ⟨_, htrace⟩

/-! ### The host's inputs at a rising edge (R25, R30) -/

/-- `start` is looked at in Idle only (R30). -/
theorem fetch_of_not_start (hrst : s.rst = false) (h : s.start = false ∨ s.st ≠ .idle) : fetch s = fetchBlock s := by
  rw [fetch_eq, if_neg (by simp [hrst]), if_neg]
  rintro ⟨hs, hst⟩
  rcases h with h | h
  · simp [hs] at h
  · exact h hst

/-- Two states that differ in `start` at most. -/
def SameButStart (s s' : State) : Prop := ∃ b, s' = { s with start := b }

theorem SameButStart.symm (h : SameButStart s s') : SameButStart s' s := by
  obtain ⟨b, rfl⟩ := h
  exact ⟨s.start, rfl⟩

/-- No operation's effect depends on `start`. -/
theorem SameButStart.transition (h : SameButStart s s') (ht : Transition s i t) :
    ∃ t', Transition s' i t' ∧ SameButStart t t' := by
  obtain ⟨b, rfl⟩ := h
  refine ⟨{ t with start := b }, ?_, b, rfl⟩
  cases ht with
  | reset x => exact .reset { s with start := b } x
  | start h => exact .start { s with start := b } h
  | rxFail d rest h hr => exact .rxFail { s with start := b } d rest h hr
  | rxEot rest h hr => exact .rxEot { s with start := b } rest h hr
  | rxSoh rest h hr => exact .rxSoh { s with start := b } rest h hr
  | rxSkip d rest h hd hd' hr => exact .rxSkip { s with start := b } d rest h hd hd' hr
  | rxBody d rest h hlt hr =>
    have hcomm : storeBody d (consume (byteWord d) rest { s with start := b }) =
        { storeBody d (consume (byteWord d) rest s) with start := b } := by
      rw [storeBody_of_lt d (consume (byteWord d) rest { s with start := b }) hlt,
        storeBody_of_lt d (consume (byteWord d) rest s) hlt]
      rfl
    exact hcomm ▸ .rxBody { s with start := b } d rest h hlt hr
  | vRejectCmp h hc => exact .vRejectCmp { s with start := b } h hc
  | vRejectSum h hc hk => exact .vRejectSum { s with start := b } h hc hk
  | vAccept h hv =>
    have hcomm (f : BlockFields) : acceptBlock f { s with start := b } = { acceptBlock f s with start := b } := by
      rw [acceptBlock_eq, acceptBlock_eq]
    exact hcomm _ ▸ .vAccept { s with start := b } h hv
  | plDrop h => exact .plDrop { s with start := b } h
  | plKeep v h hv => exact .plKeep { s with start := b } v h hv
  | txAck h => exact .txAck { s with start := b } h
  | txNak h => exact .txNak { s with start := b } h

/-- No step writes the host's inputs. -/
theorem step_host_inputs (h : step s = .next t) : t.rst = s.rst ∧ t.start = s.start := by
  obtain rfl | ⟨i, -, -, ht⟩ := step_next h
  · exact ⟨rfl, rfl⟩
  · exact ht.host_inputs

/-- Outside Idle a step with `start` does what the step without does (R30). -/
theorem step_ignores_start (hst : s.st ≠ .idle) (h : step s = .next t) (b : Bool) :
    step { s with start := b } = .next { t with start := b } := by
  obtain hrst | hrst := Bool.eq_false_or_eq_true s.rst
  · rw [step_of_rst hrst] at h
    cases h
    exact step_of_rst (s := { s with start := b }) hrst
  · have hR : SameButStart s { s with start := b } := ⟨b, rfl⟩
    have hf : fetch { s with start := b } = fetch s := by
      rw [fetch_of_not_start hrst (.inr hst), fetch_of_not_start (s := { s with start := b }) hrst (.inr hst)]
      rfl
    have hfrom (i : Instr) (t' : State) (ht' : Transition { s with start := b } i t') :
        ∃ t, Transition s i t ∧ SameButStart t t' := by
      obtain ⟨t, ht, hR'⟩ := hR.symm.transition ht'
      exact ⟨t, ht, hR'.symm⟩
    obtain ⟨t', h', c, rfl⟩ := step_related hR hf (fun _ _ => hR.transition) hfrom h
    obtain rfl : c = b := (step_host_inputs h').2
    exact h'

/-! ### A read at a rising edge (R27) -/

/-- A read is outstanding in the two reading states only (R14). -/
theorem readsInput_iff (st : St) : readsInput st = true ↔ st = .awaitingStart ∨ st = .readingBlock := by
  cases st <;> simp [readsInput]

theorem decodeAwaiting_stray {b : Byte} (hsoh : b ≠ Config.soh) (heot : b ≠ Config.eot) :
    decodeAwaiting (byteWord b) = .rxSkip b := by
  rw [decodeAwaiting, rxErr_byteWord, rxData_byteWord, if_neg (by simp), if_neg heot, if_neg hsoh]

/-- In AwaitingStart the operation decoded from the next result is enabled, and that result is what it consumes. -/
theorem awaitingStart_consumes {w : RxWord} {rest : List RxWord} (hst : s.st = .awaitingStart)
    (hrx : s.rx = w :: rest) : ∃ t more, Transition s (decodeAwaiting w) t ∧ t.rx = rest ∧
      t.trace = s.trace ++ .rx w :: more := by
  obtain ⟨b, rfl⟩ | ⟨d, rfl⟩ := rxWord_cases w
  · by_cases heot : b = Config.eot
    · subst heot
      exact ⟨_, [.tx Config.ack], .rxEot s rest hst hrx, by simp, by simp⟩
    · by_cases hsoh : b = Config.soh
      · subst hsoh
        exact ⟨_, [], .rxSoh s rest hst hrx, by simp, by simp⟩
      · rw [decodeAwaiting_stray hsoh heot]
        exact ⟨_, [], .rxSkip s b rest hst hsoh heot hrx, by simp, by simp⟩
  · have hdec : decodeAwaiting (failWord d) = .rxFail d := by simp [decodeAwaiting]
    rw [hdec]
    exact ⟨_, [], .rxFail s d rest (.inl hst) hrx, by simp, by simp⟩

/-- In ReadingBlock likewise, with a byte of BLK left to store into. -/
theorem readingBlock_consumes {w : RxWord} {rest : List RxWord} (hst : s.st = .readingBlock) (hidx : s.idx.val < 9)
    (hrx : s.rx = w :: rest) : ∃ t more, Transition s (decodeReading w) t ∧ t.rx = rest ∧
      t.trace = s.trace ++ .rx w :: more := by
  obtain ⟨b, rfl⟩ | ⟨d, rfl⟩ := rxWord_cases w
  · have hdec : decodeReading (byteWord b) = .rxBody b := by simp [decodeReading]
    rw [hdec]
    exact ⟨_, [], .rxBody s b rest hst hidx hrx, by simp, by simp⟩
  · have hdec : decodeReading (failWord d) = .rxFail d := by simp [decodeReading]
    rw [hdec]
    exact ⟨_, [], .rxFail s d rest (.inr hst) hrx, by simp, by simp⟩

/-- While a read is outstanding a step consumes the next result and nothing after it (R27, R35). -/
theorem step_consumes_next {w : RxWord} {rest : List RxWord} (hrst : s.rst = false)
    (hin : readsInput s.st = true) (hidx : s.st = .readingBlock → s.idx.val < 9) (hrx : s.rx = w :: rest) :
    ∃ t more, step s = .next t ∧ t.rx = rest ∧ t.trace = s.trace ++ .rx w :: more := by
  obtain hst | hst := (readsInput_iff s.st).mp hin
  · have hf : fetch s = some (decodeAwaiting w) := by
      rw [fetch_of_not_start hrst (.inr (by simp [hst]))]
      simp [fetchBlock, hst, hrx]
    obtain ⟨t, more, ht, hrest, htrace⟩ := awaitingStart_consumes hst hrx
    exact ⟨t, more, (step_eq_exec hf).trans (exec_of_transition ht), hrest, htrace⟩
  · have hf : fetch s = some (decodeReading w) := by
      rw [fetch_of_not_start hrst (.inr (by simp [hst]))]
      simp [fetchBlock, hst, hrx]
    obtain ⟨t, more, ht, hrest, htrace⟩ := readingBlock_consumes hst (hidx hst) hrx
    exact ⟨t, more, (step_eq_exec hf).trans (exec_of_transition ht), hrest, htrace⟩

/-- With nothing supplied a read waits (R127). -/
theorem step_waits (hrst : s.rst = false) (hin : readsInput s.st = true) (hrx : s.rx = []) : step s = .next s := by
  refine step_eq_self ?_
  obtain hst | hst := (readsInput_iff s.st).mp hin <;>
    rw [fetch_of_not_start hrst (.inr (by simp [hst]))] <;> simp [fetchBlock, hst, hrx]

/-- Without a read outstanding nothing is consumed (R62). -/
theorem Transition.rx_of_no_read (ht : Transition s i t) (hin : readsInput s.st = false) : t.rx = s.rx := by
  cases ht with
  | rxFail d rest h hr => rcases h with h | h <;> simp [h, readsInput] at hin
  | rxEot rest h hr => simp [h, readsInput] at hin
  | rxSoh rest h hr => simp [h, readsInput] at hin
  | rxSkip d rest h hd hd' hr => simp [h, readsInput] at hin
  | rxBody d rest h hlt hr => simp [h, readsInput] at hin
  | _ => simp

theorem step_rx_of_no_read (hin : readsInput s.st = false) (h : step s = .next t) : t.rx = s.rx := by
  obtain rfl | ⟨i, -, -, ht⟩ := step_next h
  · rfl
  · exact ht.rx_of_no_read hin

/-- The codes of ST differ (R26). -/
theorem stateCode_injective : Function.Injective stateCode := by
  intro a b
  cases a <;> cases b <;> decide

end Sys2Proof.Machine
end

section
namespace Sys2Proof.Proofs

open Sys2Proof.Machine

/-- Settles O48, by the lemma that each operation a step can run keeps `Inv`. -/
theorem stepKeepsTheInvariants : Obligations.StepKeepsTheInvariants :=
  fun _ _ h hstep => step_inv h hstep

/-- Settles O50: RX_SOH begins the record of a block, RX_BODY extends it, and every other step leaves no block to speak
of or changes nothing. -/
theorem stepKeepsTheBuffer : Obligations.StepKeepsTheBuffer :=
  fun _ _ _ h hstep => step_bufferHolds h hstep

/-- Settles O54, by running the one operation that both states select. -/
theorem staleBytesAreNeverRead : Obligations.StaleBytesAreNeverRead :=
  fun _ _ _ hs hs' h hstep => h.step hs hs' hstep

/-- Settles O32, element by element; that IDX is not 0 in ReadingBlock keeps RX_BODY from BLK[0]. -/
theorem whoWritesEachElement : Obligations.WhoWritesEachElement := by
  intro i s t hinv h
  obtain rfl | ht := exec_next h
  · exact ⟨.inl rfl, .inl rfl, .inl rfl, fun _ _ _ => .inl rfl, .inl rfl, .inl rfl, .inl rfl, rfl, rfl,
      .inl ⟨[], by simp⟩, .inl rfl⟩
  · refine ⟨ht.st_frame, ht.idx_frame, ?_, ?_, ht.msg_frame, ht.txlog_frame, ht.rx_frame, ht.host_inputs.1,
      ht.host_inputs.2, ht.trace_frame, ht.draws_frame⟩
    · obtain h | h | ⟨h, -⟩ | ⟨d, -, hst, hidx⟩ := ht.blk_frame 0 (by decide)
      · exact .inl h
      · exact .inr (.inl h)
      · exact .inr (.inr h)
      · have := (hinv.reading hst).1
        omega
    · intro k hk h1
      obtain h | h | ⟨-, h0⟩ | ⟨d, hi, -, hidx⟩ := ht.blk_frame k hk
      · exact .inl h
      · exact .inr (.inl h)
      · omega
      · exact .inr (.inr ⟨d, hi, hidx⟩)

/-- Settles O41, by what is fetched at the edge and by running the operation that both values of `start` select. -/
theorem hostEventsAtAnEdge : Obligations.HostEventsAtAnEdge := by
  refine ⟨fun p s hrst => ?_, fun p s hrst hstart hst => ?_, fun p s t hst h => ?_, fun p s hrst hv => ?_⟩
  · exact step_eq_exec (fetch_reset_iff.mpr ⟨hrst, rfl⟩)
  · exact step_eq_exec (by simp [fetch_eq, drive, hrst, hstart, hst])
  · exact step_ignores_start (s := drive { p with start := false } s) hst h true
  · exact ⟨_, step_of_rst (s := drive p s) hrst, rfl, by simp [drive, hv]⟩

/-- Settles O42: `Inv` gives RX_BODY its IDX below 9, so the operation decoded from the offered result is enabled. -/
theorem readAtAnEdge : Obligations.ReadAtAnEdge := by
  intro p s hinv hrst
  refine ⟨fun hreq hv => ?_, fun hreq hv => ?_, fun hreq hv => ?_, fun he => ?_, fun he => ?_⟩
  · have hidx (hst : s.st = .readingBlock) : s.idx.val < 9 := by
      obtain ⟨-, hhi, -⟩ := hinv.reading hst
      omega
    obtain ⟨t, more, h, hrx, htrace⟩ := step_consumes_next (s := drive p s) (w := mkRx p.rxErr p.rxData) (rest := [])
      hrst hreq hidx (by simp [drive, hv])
    refine ⟨t, h, hrx, ?_⟩
    have htrace : t.trace = s.trace ++ .rx (mkRx p.rxErr p.rxData) :: more := htrace
    simp [activity, htrace]
  · exact step_waits (s := drive p s) hrst hreq (by simp [drive, hv])
  · obtain ⟨t, h⟩ := step_total (drive p s)
    exact ⟨t, h, (step_rx_of_no_read (s := drive p s) hreq h).trans (by simp [drive, hv])⟩
  · simp [rxResult, he]
  · simp [rxResult, he]

/-- Settles O47, from the port activity of a step. -/
theorem historiesOnlyGrow : Obligations.HistoriesOnlyGrow := by
  intro s t hrst h
  obtain ⟨_, appends, writes, ⟨-, -, hmsg, htx⟩, -⟩ := step_performs hrst h
  exact ⟨⟨appends, hmsg⟩, writes, htx⟩

/-- Settles O51, from the port activity of a step. -/
theorem stepKeepsTheRecords : Obligations.StepKeepsTheRecords :=
  fun _ _ h hstep => step_traceAgrees h hstep

/-- Settles O53, by induction on how the state was reached. -/
theorem reachableStatesAreGood : Obligations.ReachableStatesAreGood := by
  intro s hs
  obtain ⟨hinv, hbuffer, hrecords, hsession⟩ := hs.good
  exact ⟨hinv, hbuffer, hrecords, hsession⟩

/-- Settles O43, from the injectivity of the state codes and the two reading states. -/
theorem outputsOfAState : Obligations.OutputsOfAState := by
  refine ⟨fun s => by simp [done], fun s => ?_, fun s s' h => stateCode_injective h, fun s => readsInput_iff s.st,
    fun b => ⟨rfl, rfl⟩, rfl, rfl, rfl, rfl, rfl⟩
  unfold stateOut
  cases s.st <;> decide

/-- Settles O44, by the values of `State.reset`. -/
theorem resetState : Obligations.ResetState := ⟨rfl, rfl, rfl, rfl, rfl, rfl, rfl⟩

/-- Settles O49, invariant by invariant. -/
theorem resetMeetsTheInvariants : Obligations.ResetMeetsTheInvariants :=
  ⟨inv_reset, bufferHolds_reset, traceAgrees_reset, sessionShape_reset⟩

end Sys2Proof.Proofs
end

section
/-! ### No read-ahead: one step and the input stream (R35, R45, R46) -/

namespace Sys2Proof.Machine

variable {s s' t : State} {i : Instr} {w : RxWord} {rest : List RxWord}

/-- A step leaves the stream as it is or takes its first element (R35, R119). -/
theorem step_rx (h : step s = .next t) : t.rx = s.rx ∨ ∃ w, s.rx = w :: t.rx := by
  obtain hrst | hrst := Bool.eq_false_or_eq_true s.rst
  · cases (step_of_rst hrst).symm.trans h
    exact .inl rfl
  · obtain ⟨reads, _, _, ⟨-, hrx, -⟩, hlen, -⟩ := step_performs hrst h
    match reads, hlen with
    | [], _ => exact .inl hrx.symm
    | [w], _ => exact .inr ⟨w, hrx⟩

/-- The store of a body byte does not look at the stream. -/
theorem storeBody_setRx (b : Byte) (s : State) (rx : List RxWord) :
    storeBody b { s with rx := rx } = { storeBody b s with rx := rx } := by
  unfold storeBody
  split <;> rfl

/-- Nor does the acceptance of a block. -/
theorem acceptBlock_setRx (f : BlockFields) (s : State) (rx : List RxWord) :
    acceptBlock f { s with rx := rx } = { acceptBlock f s with rx := rx } := by
  rw [acceptBlock_eq, acceptBlock_eq]

/-- Two states alike but for the stream, where `rest` follows `w` in the one and `rest'` in the other, both before or
both after `w` is consumed. -/
def SameButTail (w : RxWord) (rest rest' : List RxWord) (s s' : State) : Prop :=
  (s.rx = rest ∧ s' = { s with rx := rest' }) ∨ (s.rx = w :: rest ∧ s' = { s with rx := w :: rest' })

theorem SameButTail.symm {rest' : List RxWord} (h : SameButTail w rest rest' s s') : SameButTail w rest' rest s' s := by
  obtain ⟨rfl, rfl⟩ | ⟨hrx, rfl⟩ := h
  · exact .inl ⟨rfl, rfl⟩
  · exact .inr ⟨rfl, hrx ▸ rfl⟩

/-- The operation of one state has the same effect with anything else after the first element of its stream. -/
theorem Transition.sameButTail (ht : Transition s i t) (hrx : s.rx = w :: rest) (rest' : List RxWord) :
    ∃ t', Transition { s with rx := w :: rest' } i t' ∧ SameButTail w rest rest' t t' := by
  cases ht with
  | reset b => exact ⟨_, .reset _ b, .inr ⟨hrx, rfl⟩⟩
  | start h => exact ⟨_, .start _ h, .inr ⟨hrx, rfl⟩⟩
  | rxFail d r h hr =>
    cases hr.symm.trans hrx
    exact ⟨_, .rxFail _ d rest' h rfl, .inl ⟨rfl, rfl⟩⟩
  | rxEot r h hr =>
    cases hr.symm.trans hrx
    exact ⟨_, .rxEot _ rest' h rfl, .inl ⟨rfl, rfl⟩⟩
  | rxSoh r h hr =>
    cases hr.symm.trans hrx
    exact ⟨_, .rxSoh _ rest' h rfl, .inl ⟨rfl, rfl⟩⟩
  | rxSkip d r h hd hd' hr =>
    cases hr.symm.trans hrx
    exact ⟨_, .rxSkip _ d rest' h hd hd' rfl, .inl ⟨rfl, rfl⟩⟩
  | rxBody d r h hlt hr =>
    cases hr.symm.trans hrx
    exact ⟨_, .rxBody _ d rest' h hlt rfl,
      .inl ⟨storeBody_rx .., storeBody_setRx d (consume (byteWord d) rest s) rest'⟩⟩
  | vRejectCmp h hc => exact ⟨_, .vRejectCmp _ h hc, .inr ⟨hrx, rfl⟩⟩
  | vRejectSum h hc hk => exact ⟨_, .vRejectSum _ h hc hk, .inr ⟨hrx, rfl⟩⟩
  | vAccept h hv =>
    exact ⟨_, .vAccept _ h hv, .inr ⟨(acceptBlock_rx ..).trans hrx, acceptBlock_setRx ..⟩⟩
  | plDrop h => exact ⟨_, .plDrop _ h, .inr ⟨hrx, rfl⟩⟩
  | plKeep v h hv => exact ⟨_, .plKeep _ v h hv, .inr ⟨hrx, rfl⟩⟩
  | txAck h => exact ⟨_, .txAck _ h, .inr ⟨hrx, rfl⟩⟩
  | txNak h => exact ⟨_, .txNak _ h, .inr ⟨hrx, rfl⟩⟩

/-- Of the stream only the first element enters into which operation is selected (R58, R59). -/
theorem fetch_setRx_tail (hrx : s.rx = w :: rest) (rest' : List RxWord) :
    fetch { s with rx := w :: rest' } = fetch s := by
  simp [fetch_eq, fetchBlock, hrx]

/-- Nothing after the first element of the stream enters into a step (R35). -/
theorem step_sameButTail (hrx : s.rx = w :: rest) (h : step s = .next t) (rest' : List RxWord) :
    ∃ t', step { s with rx := w :: rest' } = .next t' ∧ SameButTail w rest rest' t t' := by
  refine step_related (.inr ⟨hrx, rfl⟩) (fetch_setRx_tail hrx rest')
    (fun _ _ ht => ht.sameButTail hrx rest') (fun i t' ht' => ?_) h
  obtain ⟨t, ht, hR⟩ := ht'.sameButTail rfl rest
  have hself : { s with rx := w :: rest } = s := by rw [← hrx]
  exact ⟨t, hself ▸ ht, hR.symm⟩

end Sys2Proof.Machine
end

section
namespace Sys2Proof.Proofs

open Sys2Proof.Machine

/-- Settles O45: the stream by the reads of a step, and the two runs by the one operation that both states select. -/
theorem noReadAhead : Obligations.NoReadAhead := by
  refine ⟨fun _ _ h => step_rx h, fun s w rest rest' t h => ?_⟩
  obtain ⟨t', h', ⟨hrx, rfl⟩ | ⟨hrx, rfl⟩⟩ := step_sameButTail rfl h rest'
  · exact ⟨_, h', rfl, .inl ⟨hrx, rfl⟩⟩
  · exact ⟨_, h', rfl, .inr ⟨hrx, rfl⟩⟩

/-- Settles O46, from the port activity of a step. -/
theorem orderOfPortActivity : Obligations.OrderOfPortActivity := by
  intro s t hrst h
  obtain ⟨reads, appends, writes, ⟨htrace, hrx, hmsg, htx⟩, hreads, happends, hwrites⟩ := step_performs hrst h
  exact ⟨reads, appends, writes, by simpa using htrace, hreads, happends, hwrites, hrx, hmsg, htx⟩

/-- Settles O29: both operations are enabled in these states, and their effect is one TxWrite. -/
theorem ackAndNakAreWritten : Obligations.AckAndNakAreWritten := fun s =>
  ⟨fun h => ⟨_, exec_of_transition (.txAck s h), rfl, rfl, rfl, rfl, rfl, rfl⟩,
    fun h => ⟨_, exec_of_transition (.txNak s h), rfl, rfl, rfl, rfl, rfl, rfl⟩⟩

end Sys2Proof.Proofs
end

section
/-! ### The tables of 30_encoding.md, row by row, and the two directions between a word and its operation -/

namespace Sys2Proof.Machine

/-! #### What each row decodes to (R56, R58, R59, R61) -/

@[simp] theorem decodeAwaiting_failWord (d : Byte) : decodeAwaiting (failWord d) = .rxFail d := by simp [decodeAwaiting]

theorem decodeAwaiting_eot : decodeAwaiting (byteWord Config.eot) = .rxEot := by simp [decodeAwaiting]

theorem decodeAwaiting_soh : decodeAwaiting (byteWord Config.soh) = .rxSoh := by simp [decodeAwaiting]

@[simp] theorem decodeReading_failWord (d : Byte) : decodeReading (failWord d) = .rxFail d := by simp [decodeReading]

@[simp] theorem decodeReading_byteWord (b : Byte) : decodeReading (byteWord b) = .rxBody b := by simp [decodeReading]

theorem decodeBlock_of_bad_complement {f : BlockFields} (hc : complementOK f = false) :
    decodeBlock f = .vRejectCmp f := by simp [decodeBlock, hc]

theorem decodeBlock_of_bad_checksum {f : BlockFields} (hc : complementOK f = true) (hk : checksumOK f = false) :
    decodeBlock f = .vRejectSum f := by simp [decodeBlock, hc, hk]

theorem decodeBlock_of_valid {f : BlockFields} (hc : complementOK f = true) (hk : checksumOK f = true) :
    decodeBlock f = .vAccept f := by simp [decodeBlock, hc, hk]

theorem decodePlb_pad : decodePlb Config.pad = .plDrop := rfl

theorem decodePlb_of_ne_pad {v : Byte} (hv : v ≠ Config.pad) : decodePlb v = .plKeep v := by
  rw [decodePlb, (isPad_eq_false v).mpr hv, if_neg (by simp)]

/-- A packed block with the marker is decoded as the block it packs (R54, R61). -/
theorem decode_packBlk (f : BlockFields) :
    decode .validating (.blk72 (packBlk Config.soh f)) = .ok (decodeBlock f) := by
  simp [decode, blkByte_packBlk, wordFields_packBlk]

/-- Bit 8 of a read result as mask and match (R58, R59). -/
theorem mask_eq_failure_iff (w : RxWord) : w &&& 0x100 = 0x100 ↔ rxErr w = true := by revert w; decide

theorem mask_eq_zero_iff (w : RxWord) : w &&& 0x100 = 0x000 ↔ rxErr w = false := by revert w; decide

theorem byteWord_of_rxErr {w : RxWord} (h : rxErr w = false) : byteWord (rxData w) = w := by
  rw [byteWord, ← h, mkRx_fields]

/-- A read result as a number: the failure flag weighs 256 (R53). -/
theorem mkRx_toNat (e : Bool) (d : Byte) : (mkRx e d).toNat = e.toNat * 256 + d.toNat := by
  have happend : (mkRx e d).toNat = (BitVec.ofBool e).toNat <<< 8 ||| d.toNat := BitVec.toNat_append ..
  rw [happend, ← Nat.shiftLeft_add_eq_or_of_lt d.isLt, Nat.shiftLeft_eq, BitVec.toNat_ofBool]

/-! #### A word that decodes is its operation's word -/

/-- `c` is the word of `i`, a well-formed operation whose row applies in `st`. -/
def IsWordOf (c : Code) (i : Instr) (st : St) : Prop := encode i = c ∧ i.wf = true ∧ st ∈ i.modes

theorem decodeHost_isWordOf {st : St} {w : HostWord} {i : Instr} (h : decodeHost st w = .ok i) :
    IsWordOf (.host w) i st := by
  have hw := mkHost_fields w
  unfold decodeHost at h
  split at h
  next hr =>
    cases h
    rw [hr] at hw
    exact ⟨by rw [encode, hw], rfl, by cases st <;> simp [Instr.modes]⟩
  next hr =>
    split at h
    next hs =>
      rw [Bool.eq_false_iff.mpr hr, hs] at hw
      split at h
      next hst =>
        cases h
        exact ⟨by rw [encode, hw], rfl, by simp [Instr.modes, hst]⟩
      next => cases h
    next => cases h

theorem decodeAwaiting_isWordOf (w : RxWord) : IsWordOf (.rxev w) (decodeAwaiting w) .awaitingStart := by
  obtain ⟨b, rfl⟩ | ⟨d, rfl⟩ := rxWord_cases w
  · by_cases heot : b = Config.eot
    · rw [heot, decodeAwaiting_eot]
      exact ⟨rfl, rfl, by simp [Instr.modes]⟩
    · by_cases hsoh : b = Config.soh
      · rw [hsoh, decodeAwaiting_soh]
        exact ⟨rfl, rfl, by simp [Instr.modes]⟩
      · rw [decodeAwaiting_stray hsoh heot]
        exact ⟨rfl, by simpa [Instr.wf] using ⟨hsoh, heot⟩, by simp [Instr.modes]⟩
  · rw [decodeAwaiting_failWord]
    exact ⟨rfl, rfl, by simp [Instr.modes]⟩

theorem decodeReading_isWordOf (w : RxWord) : IsWordOf (.rxev w) (decodeReading w) .readingBlock := by
  obtain ⟨b, rfl⟩ | ⟨d, rfl⟩ := rxWord_cases w
  · rw [decodeReading_byteWord]
    exact ⟨rfl, rfl, by simp [Instr.modes]⟩
  · rw [decodeReading_failWord]
    exact ⟨rfl, rfl, by simp [Instr.modes]⟩

theorem decodeRx_isWordOf {st : St} {w : RxWord} {i : Instr} (h : decodeRx st w = .ok i) :
    IsWordOf (.rxev w) i st := by
  cases st with
  | awaitingStart => cases h; exact decodeAwaiting_isWordOf w
  | readingBlock => cases h; exact decodeReading_isWordOf w
  | idle => cases h
  | validating => cases h
  | terminated => cases h

theorem decodeBlock_isWordOf (f : BlockFields) :
    IsWordOf (.blk72 (packBlk Config.soh f)) (decodeBlock f) .validating := by
  cases hc : complementOK f with
  | false =>
    rw [decodeBlock_of_bad_complement hc]
    exact ⟨rfl, by simp [Instr.wf, hc], by simp [Instr.modes]⟩
  | true =>
    cases hk : checksumOK f with
    | false =>
      rw [decodeBlock_of_bad_checksum hc hk]
      exact ⟨rfl, by simp [Instr.wf, hc, hk], by simp [Instr.modes]⟩
    | true =>
      rw [decodeBlock_of_valid hc hk]
      exact ⟨rfl, by simp [Instr.wf, hc, hk], by simp [Instr.modes]⟩

theorem decodePlb_isWordOf (b : Byte) : IsWordOf (.plb b) (decodePlb b) .validating := by
  by_cases hb : b = Config.pad
  · subst hb
    rw [decodePlb_pad]
    exact ⟨rfl, rfl, by simp [Instr.modes]⟩
  · rw [decodePlb_of_ne_pad hb]
    exact ⟨rfl, by simpa [Instr.wf] using hb, by simp [Instr.modes]⟩

theorem decodeTxb_isWordOf {st : St} {b : Byte} {i : Instr} (h : decodeTxb st b = .ok i) :
    IsWordOf (.txb b) i st := by
  unfold decodeTxb at h
  split at h
  next hb =>
    split at h
    next hst => cases h; exact ⟨by rw [encode, hb], rfl, by simpa [Instr.modes] using hst⟩
    next => cases h
  next =>
    split at h
    next hb =>
      split at h
      next hst => cases h; exact ⟨by rw [encode, hb], rfl, by simpa [Instr.modes] using hst⟩
      next => cases h
    next => cases h

theorem isWordOf_of_decode {st : St} {c : Code} {i : Instr} (h : decode st c = .ok i) : IsWordOf c i st := by
  cases c with
  | host w => exact decodeHost_isWordOf h
  | rxev w => exact decodeRx_isWordOf h
  | blk72 w =>
    simp only [decode] at h
    split at h
    next hst =>
      split at h
      next hm =>
        cases h
        have hw := packBlk_wordFields w
        rw [hm] at hw
        rw [hst, ← hw, wordFields_packBlk]
        exact decodeBlock_isWordOf _
      next => cases h
    next => cases h
  | plb b =>
    simp only [decode] at h
    split at h
    next hst => cases h; exact hst ▸ decodePlb_isWordOf b
    next => cases h
  | txb b => exact decodeTxb_isWordOf h

/-! #### The word of an operation decodes to it -/

theorem decode_encode {i : Instr} {st : St} (hwf : i.wf = true) (hst : st ∈ i.modes) :
    decode st (encode i) = .ok i := by
  cases i with
  | reset b => simp [encode, decode, decodeHost]
  | start =>
    obtain rfl := List.mem_singleton.mp hst
    simp [encode, decode, decodeHost]
  | rxFail d =>
    obtain rfl | rfl : st = .awaitingStart ∨ st = .readingBlock := by simpa [Instr.modes] using hst
    · exact congrArg Except.ok (decodeAwaiting_failWord d)
    · exact congrArg Except.ok (decodeReading_failWord d)
  | rxEot =>
    obtain rfl := List.mem_singleton.mp hst
    exact congrArg Except.ok decodeAwaiting_eot
  | rxSoh =>
    obtain rfl := List.mem_singleton.mp hst
    exact congrArg Except.ok decodeAwaiting_soh
  | rxSkip d =>
    obtain rfl := List.mem_singleton.mp hst
    obtain ⟨hsoh, heot⟩ : d ≠ Config.soh ∧ d ≠ Config.eot := by simpa [Instr.wf] using hwf
    exact congrArg Except.ok (decodeAwaiting_stray hsoh heot)
  | rxBody d =>
    obtain rfl := List.mem_singleton.mp hst
    exact congrArg Except.ok (decodeReading_byteWord d)
  | vRejectCmp f =>
    obtain rfl := List.mem_singleton.mp hst
    have hc : complementOK f = false := by simpa [Instr.wf] using hwf
    rw [encode, decode_packBlk, decodeBlock_of_bad_complement hc]
  | vRejectSum f =>
    obtain rfl := List.mem_singleton.mp hst
    obtain ⟨hc, hk⟩ : complementOK f = true ∧ checksumOK f = false := by simpa [Instr.wf] using hwf
    rw [encode, decode_packBlk, decodeBlock_of_bad_checksum hc hk]
  | vAccept f =>
    obtain rfl := List.mem_singleton.mp hst
    obtain ⟨hc, hk⟩ : complementOK f = true ∧ checksumOK f = true := by simpa [Instr.wf] using hwf
    rw [encode, decode_packBlk, decodeBlock_of_valid hc hk]
  | plDrop =>
    obtain rfl := List.mem_singleton.mp hst
    exact congrArg Except.ok decodePlb_pad
  | plKeep v =>
    obtain rfl := List.mem_singleton.mp hst
    have hv : v ≠ Config.pad := by simpa [Instr.wf] using hwf
    exact congrArg Except.ok (decodePlb_of_ne_pad hv)
  | txAck =>
    have hst : st = .validating ∨ st = .awaitingStart := by simpa [Instr.modes] using hst
    simp [encode, decode, decodeTxb, hst]
  | txNak =>
    have hst : st = .idle ∨ st = .validating := by simpa [Instr.modes] using hst
    simp [encode, decode, decodeTxb, hst]

end Sys2Proof.Machine
end

section
/-! ### The operation selected is enabled; a step without a read outstanding (R62); a failed read (R53) -/

namespace Sys2Proof.Machine

variable {s t : State} {i : Instr}

/-- In ReadingBlock a failure is taken, and a byte too if BLK has room for it. -/
theorem readingBlock_enabled {w : RxWord} {rest : List RxWord} (hst : s.st = .readingBlock) (hrx : s.rx = w :: rest) :
    (∃ t, Transition s (decodeReading w) t) ∨ ∃ d, decodeReading w = .rxBody d := by
  obtain ⟨b, rfl⟩ | ⟨d, rfl⟩ := rxWord_cases w
  · exact .inr ⟨b, decodeReading_byteWord b⟩
  · rw [decodeReading_failWord]
    exact .inl ⟨_, .rxFail s d rest (.inr hst) hrx⟩

/-- In Validating the outcome decoded from BLK is enabled (R61, R81). -/
theorem validating_enabled (hst : s.st = .validating) : ∃ t, Transition s (decodeBlock (bufferFields s.blk)) t := by
  cases hc : complementOK (bufferFields s.blk) with
  | false =>
    rw [decodeBlock_of_bad_complement hc]
    exact ⟨_, .vRejectCmp s hst hc⟩
  | true =>
    cases hk : checksumOK (bufferFields s.blk) with
    | false =>
      rw [decodeBlock_of_bad_checksum hc hk]
      exact ⟨_, .vRejectSum s hst hc hk⟩
    | true =>
      rw [decodeBlock_of_valid hc hk]
      exact ⟨_, .vAccept s hst ((blockValid_iff _).mpr ⟨hc, hk⟩)⟩

/-- What ST and the next read result select is enabled, but for RX_BODY in a state that no run reaches (log entry 5). -/
theorem fetchBlock_enabled (hf : fetchBlock s = some i) :
    (∃ t, Transition s i t) ∨ ∃ d, i = .rxBody d ∧ s.st = .readingBlock := by
  unfold fetchBlock at hf
  split at hf
  next => cases hf
  next hst =>
    obtain ⟨w, hw, rfl⟩ := Option.map_eq_some_iff.mp hf
    obtain ⟨rest, hrx⟩ := List.head?_eq_some_iff.mp hw
    obtain ⟨t, -, ht, -⟩ := awaitingStart_consumes hst hrx
    exact .inl ⟨t, ht⟩
  next hst =>
    obtain ⟨w, hw, rfl⟩ := Option.map_eq_some_iff.mp hf
    obtain ⟨rest, hrx⟩ := List.head?_eq_some_iff.mp hw
    exact (readingBlock_enabled hst hrx).imp id fun ⟨d, hd⟩ => ⟨d, hd, hst⟩
  next hst =>
    cases hf
    exact .inl (validating_enabled hst)
  next => cases hf

/-- So is every operation selected (R88). -/
theorem fetch_enabled (hf : fetch s = some i) :
    (∃ t, Transition s i t) ∨ ∃ d, i = .rxBody d ∧ s.st = .readingBlock := by
  rw [fetch_eq] at hf
  split at hf
  next => cases hf; exact .inl ⟨_, .reset s s.start⟩
  next =>
    split at hf
    next h => cases hf; exact .inl ⟨_, .start s h.2⟩
    next => exact fetchBlock_enabled hf

/-- The operation selected has its whole effect, with the same exception. -/
theorem transition_of_fetch (hf : fetch s = some i) (h : exec i s = .next t) :
    Transition s i t ∨ t = s ∧ ∃ d, i = .rxBody d ∧ s.st = .readingBlock := by
  obtain rfl | ht := exec_next h
  · obtain ⟨t', ht'⟩ | hbody := fetch_enabled hf
    · cases h.symm.trans (exec_of_transition ht')
      exact .inl ht'
    · exact .inr ⟨rfl, hbody⟩
  · exact .inl ht

/-- With no read outstanding the stream does not enter into which operation is selected (R62). -/
theorem fetch_setRx (hin : readsInput s.st = false) (rx : List RxWord) : fetch { s with rx := rx } = fetch s := by
  have hblock : fetchBlock { s with rx := rx } = fetchBlock s := by
    unfold fetchBlock
    cases hst : s.st with
    | awaitingStart => simp [hst, readsInput] at hin
    | readingBlock => simp [hst, readsInput] at hin
    | idle => simp
    | validating => simp
    | terminated => simp
  rw [fetch_eq, fetch_eq, hblock]

/-- Nor into its effect. -/
theorem Transition.setRx (ht : Transition s i t) (hin : readsInput s.st = false) (rx : List RxWord) :
    Transition { s with rx := rx } i { t with rx := rx } := by
  cases ht with
  | reset b => exact .reset { s with rx := rx } b
  | start h => exact .start { s with rx := rx } h
  | rxFail d rest h hr => rcases h with h | h <;> simp [h, readsInput] at hin
  | rxEot rest h hr => simp [h, readsInput] at hin
  | rxSoh rest h hr => simp [h, readsInput] at hin
  | rxSkip d rest h hd hd' hr => simp [h, readsInput] at hin
  | rxBody d rest h hlt hr => simp [h, readsInput] at hin
  | vRejectCmp h hc => exact .vRejectCmp { s with rx := rx } h hc
  | vRejectSum h hc hk => exact .vRejectSum { s with rx := rx } h hc hk
  | vAccept h hv => exact acceptBlock_setRx .. ▸ .vAccept { s with rx := rx } h hv
  | plDrop h => exact .plDrop { s with rx := rx } h
  | plKeep v h hv => exact .plKeep { s with rx := rx } v h hv
  | txAck h => exact .txAck { s with rx := rx } h
  | txNak h => exact .txNak { s with rx := rx } h

/-- With no read outstanding a step is the same whatever results are offered (R62). -/
theorem step_ignores_rx (hin : readsInput s.st = false) (h : step s = .next t) (rx : List RxWord) :
    step { s with rx := rx } = .next { t with rx := rx } := by
  have hf := fetch_setRx hin rx
  cases hi : fetch s with
  | none =>
    cases (step_eq_self hi).symm.trans h
    exact step_eq_self (hf.trans hi)
  | some i =>
    rw [step_eq_exec hi] at h
    obtain ht | ⟨-, d, -, hst⟩ := transition_of_fetch hi h
    · rw [step_eq_exec (hf.trans hi)]
      exact exec_of_transition (ht.setRx hin rx)
    · simp [hst, readsInput] at hin

/-- A failed read ends the session, whatever its `data` field holds (R92). -/
theorem step_of_failWord {d : Byte} {rest : List RxWord} (hrst : s.rst = false) (hin : readsInput s.st = true)
    (hrx : s.rx = failWord d :: rest) : step s = .next (abandon (consume (failWord d) rest s)) := by
  have hst := (readsInput_iff s.st).mp hin
  have hf : fetch s = some (.rxFail d) := by
    obtain hst | hst := hst <;> rw [fetch_of_not_start hrst (.inr (by simp [hst]))] <;> simp [fetchBlock, hst, hrx]
  exact (step_eq_exec hf).trans (exec_of_transition (.rxFail s d rest hst hrx))

end Sys2Proof.Machine
end

section
namespace Sys2Proof.Proofs

open Sys2Proof.Machine

/-- Settles O3, operation by operation. -/
theorem decodeOfEncodeIsTheOperation : Obligations.DecodeOfEncodeIsTheOperation :=
  fun _ _ hwf hst => decode_encode hwf hst

/-- Settles O4, format by format. -/
theorem decodedWordIsTheEncoding : Obligations.DecodedWordIsTheEncoding :=
  fun _ _ _ h => isWordOf_of_decode h

/-- Settles O11: with no read outstanding neither the selection nor the effect looks at the stream. -/
theorem noReadDecodedElsewhere : Obligations.NoReadDecodedElsewhere := by
  intro s hst
  have hin : readsInput s.st = false := by rcases hst with h | h | h <;> rw [h] <;> rfl
  refine ⟨hin, fun w => by rcases hst with h | h | h <;> rw [h] <;> rfl,
    fun t rx h => ⟨step_rx_of_no_read hin h, step_ignores_rx hin h rx⟩, fun hi hrst => ?_, fun ht hrst => ?_⟩
  · simp [fetch_eq, fetchBlock, hrst, hi]
  · simp [fetch_eq, fetchBlock, hrst, ht]

/-- Settles O31: the operation selected has its whole effect, and RX_BODY at IDX 9, which has none, writes nothing. -/
theorem whoWritesToTheTransport : Obligations.WhoWritesToTheTransport := by
  intro i s t hf h
  obtain ht | ⟨rfl, d, rfl, -⟩ := transition_of_fetch hf h
  · cases ht with
    | reset b => exact ⟨rfl, by simp [activity]⟩
    | rxBody d rest h hlt hr => exact storeBody_txlog ..
    | vAccept h hv => exact acceptBlock_txlog ..
    | txAck h => exact absurd (fetch_isStep hf) (by decide)
    | txNak h => exact absurd (fetch_isStep hf) (by decide)
    | _ => rfl
  · rfl

/-- Settles O35: RESET and a step without a read outstanding do not look at the failure; RX_FAIL drops its `data`. -/
theorem failureCarriesNoByte : Obligations.FailureCarriesNoByte := by
  intro s d d' rest t t' h h'
  obtain hrst | hrst := Bool.eq_false_or_eq_true s.rst
  · cases (step_of_rst (s := { s with rx := failWord d :: rest }) hrst).symm.trans h
    cases (step_of_rst (s := { s with rx := failWord d' :: rest }) hrst).symm.trans h'
    exact ⟨rfl, rfl, rfl, rfl, rfl, rfl⟩
  · obtain hin | hin := Bool.eq_false_or_eq_true (readsInput s.st)
    · cases (step_of_failWord (s := { s with rx := failWord d :: rest }) hrst hin rfl).symm.trans h
      cases (step_of_failWord (s := { s with rx := failWord d' :: rest }) hrst hin rfl).symm.trans h'
      exact ⟨rfl, rfl, rfl, rfl, rfl, rfl⟩
    · have hrx : t.rx = failWord d :: rest := step_rx_of_no_read (s := { s with rx := failWord d :: rest }) hin h
      cases (step_ignores_rx (s := { s with rx := failWord d :: rest }) hin h (failWord d' :: rest)).symm.trans h'
      exact ⟨rfl, rfl, rfl, rfl, rfl, by simp [hrx]⟩

/-- Settles O40: `step` and `exec` are total. -/
theorem nothingTraps : Obligations.NothingTraps := ⟨step_total, exec_total⟩

/-- Settles O2, by evaluating the decoder on each word. -/
theorem writtenOutWordsDecode : Obligations.WrittenOutWordsDecode := by
  unfold Obligations.WrittenOutWordsDecode
  decide

/-- Settles O5, from the fields of each of the four words. -/
theorem hostWordDecode : Obligations.HostWordDecode := by
  refine ⟨fun st => ⟨rfl, rfl⟩, rfl, fun st hst => ?_, fun s hst => onState_disabled (by simp [hst]), fun st => rfl⟩
  exact if_neg hst

/-- Settles O6, row by row: the last row's words are the bytes other than 0x04 and 0x01. -/
theorem awaitingStartDecode : Obligations.AwaitingStartDecode := by
  intro w
  have hall : w &&& 0x1FF = w := BitVec.and_allOnes
  refine ⟨fun h => ?_, fun h => ?_, fun h => ?_, fun h heot hsoh => ?_⟩
  · exact congrArg Except.ok (if_pos ((mask_eq_failure_iff w).mp h))
  · rw [← hall, h]
    exact congrArg Except.ok decodeAwaiting_eot
  · rw [← hall, h]
    exact congrArg Except.ok decodeAwaiting_soh
  · obtain ⟨b, rfl⟩ : ∃ b, byteWord b = w := ⟨_, byteWord_of_rxErr ((mask_eq_zero_iff w).mp h)⟩
    have hdec : decodeAwaiting (byteWord b) = .rxSkip b :=
      decodeAwaiting_stray (fun hb => hsoh (congrArg byteWord hb)) (fun hb => heot (congrArg byteWord hb))
    have hdata : (byteWord b).extractLsb' 0 8 = b := rxData_byteWord b
    rw [hdata]
    exact congrArg Except.ok hdec

/-- Settles O7, row by row. -/
theorem readingBlockDecode : Obligations.ReadingBlockDecode := by
  intro w
  rw [mask_eq_failure_iff, mask_eq_zero_iff]
  exact ⟨fun h => congrArg Except.ok (if_pos h), fun h => congrArg Except.ok (if_neg (by simp [h]))⟩

/-- Settles O8, from the two checks in natural numbers. -/
theorem completedBlockDecode : Obligations.CompletedBlockDecode := by
  intro f
  exact ⟨fun hc => decodeBlock_of_bad_complement (Bool.eq_false_iff.mpr (mt (complementOK_iff f).mp hc)),
    fun hc hk => decodeBlock_of_bad_checksum ((complementOK_iff f).mpr hc)
      (Bool.eq_false_iff.mpr (mt (checksumOK_iff f).mp hk)),
    fun hc hk => decodeBlock_of_valid ((complementOK_iff f).mpr hc) ((checksumOK_iff f).mpr hk)⟩

/-- Settles O9, by the value of a read result as a number. -/
theorem readWordLayout : Obligations.ReadWordLayout := by
  refine ⟨fun d => ⟨?_, ?_⟩, fun w => rfl⟩
  · simp [byteWord, mkRx_toNat]
  · simp [failWord, mkRx_toNat]

/-- Settles O10, from the marker and the fields of a packed block. -/
theorem blockWordLayout : Obligations.BlockWordLayout := by
  refine ⟨fun m f => ?_, packBlk_wordFields⟩
  have h := wordFields_packBlk m f
  exact ⟨blkByte_packBlk m f, congrArg BlockFields.seq h, congrArg BlockFields.cmp h, congrArg BlockFields.p0 h,
    congrArg BlockFields.p1 h, congrArg BlockFields.p2 h, congrArg BlockFields.p3 h, congrArg BlockFields.p4 h,
    congrArg BlockFields.cks h⟩

/-- Settles O28: both operations are enabled in Validating, and their effect is nothing or one MsgAppend. -/
theorem payloadByteDroppedOrKept : Obligations.PayloadByteDroppedOrKept := by
  refine ⟨decodePlb_pad, fun v hv => decodePlb_of_ne_pad hv, fun s hst => ⟨?_, fun v hv => ?_⟩⟩
  · exact ⟨s, exec_of_transition (.plDrop s hst), hst, rfl, rfl, rfl, rfl, rfl⟩
  · exact ⟨_, exec_of_transition (.plKeep s v hst hv), hst, rfl, rfl, rfl, rfl, rfl⟩

end Sys2Proof.Proofs
end

section
/-! ### A block in progress, byte by byte, to its one answer (R68, R70, R71, R96) -/

namespace Sys2Proof.Machine

variable {s t u : State} {bytes : List Byte} {rx : List RxWord}

theorem fetch_of_awaitingStart {w : RxWord} (hrst : s.rst = false) (hst : s.st = .awaitingStart)
    (hrx : s.rx = w :: rx) : fetch s = some (decodeAwaiting w) := by
  rw [fetch_of_not_start hrst (.inr (by simp [hst]))]
  simp [fetchBlock, hst, hrx]

theorem fetch_of_readingBlock {w : RxWord} (hrst : s.rst = false) (hst : s.st = .readingBlock)
    (hrx : s.rx = w :: rx) : fetch s = some (decodeReading w) := by
  rw [fetch_of_not_start hrst (.inr (by simp [hst]))]
  simp [fetchBlock, hst, hrx]

theorem fetch_of_validating (hrst : s.rst = false) (hst : s.st = .validating) :
    fetch s = some (decodeBlock (bufferFields s.blk)) := by
  rw [fetch_of_not_start hrst (.inr (by simp [hst]))]
  simp [fetchBlock, hst]

/-- Port activity that only reads, then any further port activity. -/
theorem Performs.after_reads {reads reads' : List RxWord} {appends writes : List Byte}
    (h : Performs s u reads [] []) (h' : Performs u t reads' appends writes) :
    Performs s t (reads ++ reads') appends writes := by
  obtain ⟨htrace, hrx, hmsg, htx⟩ := h
  obtain ⟨htrace', hrx', hmsg', htx'⟩ := h'
  simp [Performs, *]

/-- In Validating the outcome decoded answers the block that BLK holds, appends what it keeps and awaits the next
marker (R81). -/
theorem validating_answers (hst : s.st = .validating) :
    ∃ t, Transition s (decodeBlock (bufferFields s.blk)) t ∧ t.st = .awaitingStart ∧ t.idx.val = 0 ∧
      Performs s t [] (Segment.block (bufferFields s.blk)).kept (Segment.block (bufferFields s.blk)).answer := by
  cases hc : complementOK (bufferFields s.blk) with
  | false =>
    rw [decodeBlock_of_bad_complement hc]
    exact ⟨_, .vRejectCmp s hst hc, rfl, rfl, performs_reject (by simp [blockValid, hc])⟩
  | true =>
    cases hk : checksumOK (bufferFields s.blk) with
    | false =>
      rw [decodeBlock_of_bad_checksum hc hk]
      exact ⟨_, .vRejectSum s hst hc hk, rfl, rfl, performs_reject (by simp [blockValid, hk])⟩
    | true =>
      have hv := (blockValid_iff _).mpr ⟨hc, hk⟩
      rw [decodeBlock_of_valid hc hk]
      exact ⟨_, .vAccept s hst hv, rfl, rfl, performs_accept hv⟩

theorem length_held (s : State) : (held s).length = s.idx.val := by
  have := s.idx.isLt
  simp [held]
  omega

theorem blockBytes_injective : Function.Injective blockBytes := by
  rintro ⟨⟩ ⟨⟩ h
  simpa [blockBytes] using h

/-- Once the bytes held are a whole block, BLK holds that block. -/
theorem bufferFields_of_held {f : BlockFields} (h : held s = blockBytes f) : bufferFields s.blk = f := by
  have hidx : s.idx.val = 9 := (length_held s).symm.trans (congrArg List.length h)
  have hall : s.blk.toList = blockBytes f := by
    rw [← h, held, hidx]
    exact (List.take_of_length_le (by simp)).symm
  have hsoh : s.blk[0] = Config.soh := by simp [← Vector.getElem_toList, hall, blockBytes]
  exact blockBytes_injective ((toList_eq_blockBytes s.blk hsoh).symm.trans hall)

/-- `bytes` of a block are held, in ReadingBlock while some are missing and in Validating once there are nine (R14),
and the read results `rx` stand next. -/
structure InBlock (s : State) (bytes : List Byte) (rx : List RxWord) : Prop where
  rst : s.rst = false
  st : s.st = if s.idx.val = 9 then .validating else .readingBlock
  bytes_held : held s = bytes
  rx : s.rx = rx

theorem InBlock.idx (h : InBlock s bytes rx) : s.idx.val = bytes.length := by rw [← h.bytes_held, length_held]

/-- The marker in AwaitingStart begins a block (R68). -/
theorem step_of_marker (hrst : s.rst = false) (hst : s.st = .awaitingStart) (hrx : s.rx = byteWord Config.soh :: rx) :
    ∃ u, step s = .next u ∧ InBlock u [Config.soh] rx ∧ Performs s u [byteWord Config.soh] [] [] := by
  refine ⟨storeMarker (consume (byteWord Config.soh) rx s), ?_, ⟨hrst, rfl, held_storeMarker _, rfl⟩,
    by simp [Performs, hrx]⟩
  rw [step_eq_exec (fetch_of_awaitingStart hrst hst hrx), decodeAwaiting_soh]
  exact exec_of_transition (.rxSoh s rx hst hrx)

/-- A byte is added to a block that is not complete (R70). -/
theorem InBlock.step_of_byte {b : Byte} (h : InBlock s bytes (byteWord b :: rx)) (hlen : bytes.length < 9) :
    ∃ u, step s = .next u ∧ InBlock u (bytes ++ [b]) rx ∧ Performs s u [byteWord b] [] [] := by
  have hlt : s.idx.val < 9 := h.idx ▸ hlen
  have hst : s.st = .readingBlock := h.st.trans (if_neg hlt.ne)
  refine ⟨storeBody b (consume (byteWord b) rx s), ?_, ⟨?_, ?_, ?_, ?_⟩, by simp [Performs, h.rx]⟩
  · rw [step_eq_exec (fetch_of_readingBlock h.rst hst h.rx), decodeReading_byteWord]
    exact exec_of_transition (.rxBody s b rx hst hlt h.rx)
  · simp [h.rst]
  · simp [storeBody_st b (consume _ _ s) hlt, storeBody_idx b (consume _ _ s) hlt, hst]
  · simp [held_storeBody b (consume _ _ s) hlt, h.bytes_held]
  · simp

/-- A complete block is answered in the next step (R80). -/
theorem InBlock.step_of_complete {f : BlockFields} (h : InBlock s (blockBytes f) rx) :
    ∃ t, step s = .next t ∧ t.st = .awaitingStart ∧ t.idx.val = 0 ∧
      Performs s t [] (Segment.block f).kept (Segment.block f).answer := by
  have hst : s.st = .validating := h.st.trans (if_pos h.idx)
  obtain ⟨t, htr, ht⟩ := validating_answers hst
  rw [bufferFields_of_held h.bytes_held] at ht
  exact ⟨t, (step_eq_exec (fetch_of_validating h.rst hst)).trans (exec_of_transition htr), ht⟩

/-- The bytes `more` that complete a block are added one a step, and one more step answers it. -/
theorem InBlock.answered {f : BlockFields} (more : List Byte) (h : InBlock s bytes (more.map byteWord ++ rx))
    (hf : bytes ++ more = blockBytes f) :
    ∃ t, StepsTo (more.length + 1) s t ∧ t.st = .awaitingStart ∧ t.idx.val = 0 ∧
      Performs s t (more.map byteWord) (Segment.block f).kept (Segment.block f).answer := by
  induction more generalizing s bytes with
  | nil =>
    obtain rfl : bytes = blockBytes f := by simpa using hf
    obtain ⟨t, hstep, ht⟩ := h.step_of_complete
    exact ⟨t, .succ 0 s t t hstep (.zero t), ht⟩
  | cons b more ih =>
    have hlen : bytes.length + (b :: more).length = 9 := List.length_append.symm.trans (congrArg List.length hf)
    obtain ⟨u, hstep, hu, hp⟩ := h.step_of_byte (by rw [List.length_cons] at hlen; omega)
    obtain ⟨t, hsteps, ht, hidx, hp'⟩ := ih hu (by simpa using hf)
    exact ⟨t, .succ _ s u t hstep hsteps, ht, hidx, hp.after_reads hp'⟩

/-- Nine bytes that begin with the marker, read from AwaitingStart, are answered in ten steps (R71, R96). -/
theorem steps_of_block {f : BlockFields} (hrst : s.rst = false) (hst : s.st = .awaitingStart)
    (hrx : s.rx = (blockBytes f).map byteWord ++ rx) :
    ∃ t, StepsTo 10 s t ∧ t.st = .awaitingStart ∧ t.idx.val = 0 ∧
      Performs s t (Segment.block f).words (Segment.block f).kept (Segment.block f).answer := by
  obtain ⟨u, hstep, hu, hp⟩ := step_of_marker hrst hst hrx
  obtain ⟨t, hsteps, ht, hidx, hp'⟩ := hu.answered (f := f) (blockBytes f).tail rfl
  exact ⟨t, .succ 9 s u t hstep hsteps, ht, hidx, hp.after_reads hp'⟩

end Sys2Proof.Machine
end

section
namespace Sys2Proof.Proofs

open Sys2Proof.Machine

/-- Settles O55, by the port activity of a block received whole. -/
theorem anyBlockIsAnsweredInTenSteps : Obligations.AnyBlockIsAnsweredInTenSteps := by
  intro s f rest hst hrst hrx
  obtain ⟨t, h, ht, hidx, -, hreads, hmsg, htx⟩ := steps_of_block hrst hst hrx
  have hanswer : (Segment.block f).answer = [if blockValid f then 0x06 else 0x15] := by
    simp only [Segment.answer]
    split <;> rfl
  exact ⟨t, h, ht, hidx, (List.append_cancel_left (hrx.symm.trans hreads)).symm, hmsg, hanswer ▸ htx⟩

/-- Settles O18, by the effect of the enabled operation. -/
theorem rxSohStoresTheMarker : Obligations.RxSohStoresTheMarker :=
  ⟨congrArg Except.ok decodeAwaiting_soh, fun s rest hst hrx =>
    ⟨_, exec_of_transition (.rxSoh s rest hst hrx), rfl, rfl, rfl, rfl, rfl, rfl⟩⟩

/-- Settles O19: the enabled operation consumes the byte and does no more. -/
theorem rxSkipChangesNothing : Obligations.RxSkipChangesNothing :=
  fun s d rest hst hsoh heot hrx => ⟨congrArg Except.ok (decodeAwaiting_stray hsoh heot),
    _, exec_of_transition (.rxSkip s d rest hst hsoh heot hrx), hst, rfl, rfl, rfl, rfl, rfl⟩

/-- Settles O20, by the effect of the enabled operation element by element; the new IDX is 9 when the old was 8. -/
theorem rxBodyStoresOneByte : Obligations.RxBodyStoresOneByte := by
  intro s d rest hlt hst _ hrx
  let u : State := consume (byteWord d) rest s
  refine ⟨congrArg Except.ok (decodeReading_byteWord d), storeBody d u,
    exec_of_transition (.rxBody s d rest hst hlt hrx), ?_, storeBody_idx d u hlt, storeBody_blk d u hlt,
    storeBody_msg d u, storeBody_txlog d u, storeBody_rx d u⟩
  simp [storeBody_st d u hlt, u, hst]

end Sys2Proof.Proofs
end

section
/-! ### The validator's checks in the forms of R79, and what its outcomes look at and change (R81 to R85) -/

namespace Sys2Proof.Machine

variable {s t : State}

/-! #### The arithmetic of the checks (R74, R75, R79) -/

/-- The sum modulo 256 is the sum in an 8-bit accumulator. -/
theorem checksum_eq_add (p0 p1 p2 p3 p4 : Byte) : checksum p0 p1 p2 p3 p4 = p0 + p1 + p2 + p3 + p4 := by
  apply BitVec.eq_of_toNat_eq
  simp [checksum_toNat, BitVec.toNat_add]

/-- Eleven bits hold the sum of five bytes, and the checksum is the low byte of it. -/
theorem checksum_eq_low_byte (p0 p1 p2 p3 p4 : Byte) :
    checksum p0 p1 p2 p3 p4 =
      (p0.setWidth 11 + p1.setWidth 11 + p2.setWidth 11 + p3.setWidth 11 + p4.setWidth 11).extractLsb' 0 8 := by
  apply BitVec.eq_of_toNat_eq
  simp only [checksum_toNat, BitVec.extractLsb'_toNat, BitVec.toNat_add, BitVec.toNat_setWidth, Nat.shiftRight_zero]
  omega

/-- Subtracting from 255 inverts every bit, so the complement check asks for the bitwise complement. -/
theorem complementOK_iff_eq_not (f : BlockFields) : complementOK f = true ↔ f.cmp = ~~~f.seq := by
  rw [complementOK_iff, BitVec.toNat_eq, BitVec.toNat_not]

theorem xor_eq_allOnes_iff {w : Nat} (x y : BitVec w) : x ^^^ y = BitVec.allOnes w ↔ y = ~~~x := by
  have hx : x ^^^ ~~~x = BitVec.allOnes w := by
    rw [← BitVec.xor_allOnes, ← BitVec.xor_assoc, BitVec.xor_self, BitVec.zero_xor]
  rw [← hx, BitVec.xor_right_inj]

theorem complementOK_iff_xor (f : BlockFields) : complementOK f = true ↔ f.seq ^^^ f.cmp = 0xFF :=
  (complementOK_iff_eq_not f).trans (xor_eq_allOnes_iff f.seq f.cmp).symm

theorem complementOK_iff_add (f : BlockFields) : complementOK f = true ↔ f.seq.toNat + f.cmp.toNat = 255 := by
  rw [complementOK_iff]
  omega

/-- Two bytes add up to at most 510, of which only 255 leaves 255 modulo 256. -/
theorem complementOK_iff_add_mod (f : BlockFields) :
    complementOK f = true ↔ (f.seq.toNat + f.cmp.toNat) % 256 = 255 := by
  rw [complementOK_iff_add]
  omega

theorem padFilter_eq_filter (p : List Byte) : padFilter p = p.filter (· ≠ 0x03) :=
  List.filter_congr fun b _ => by simp [isPad, beq_eq_decide]

/-! #### What the outcome looks at (R77, R85) -/

/-- The fields of a block leave the marker out. -/
theorem bufferFields_congr {v v' : Vector Byte 9} (h : ∀ (i : Nat) (hi : i < 9), 1 ≤ i → v[i] = v'[i]) :
    bufferFields v = bufferFields v' := by
  simp [bufferFields, h]

theorem bufferFields_set_marker (v : Vector Byte 9) (b : Byte) : bufferFields (v.set 0 b) = bufferFields v :=
  bufferFields_congr fun i hi h1 => Vector.getElem_set_ne (by decide) hi (by omega)

theorem decodeBlock_cases (f : BlockFields) :
    decodeBlock f = .vRejectCmp f ∨ decodeBlock f = .vRejectSum f ∨ decodeBlock f = .vAccept f := by
  cases hc : complementOK f with
  | false => exact .inl (decodeBlock_of_bad_complement hc)
  | true =>
    cases hk : checksumOK f with
    | false => exact .inr (.inl (decodeBlock_of_bad_checksum hc hk))
    | true => exact .inr (.inr (decodeBlock_of_valid hc hk))

/-- The word of a block's outcome is the block, so the one that is well formed is the one the block decodes to. -/
theorem wf_iff_decodeBlock_eq {f : BlockFields} {i : Instr}
    (hword : encode i = .blk72 (packBlk Config.soh f)) (hmode : St.validating ∈ i.modes) :
    i.wf = true ↔ decodeBlock f = i := by
  constructor
  · intro hwf
    have hdec := decode_encode hwf hmode
    rw [hword, decode_packBlk] at hdec
    exact Except.ok.inj hdec
  · rintro rfl
    exact (decodeBlock_isWordOf f).2.1

/-! #### What the outcome changes (R81 to R84) -/

/-- What a step adds to the trace is its port activity. -/
theorem activity_of_performs {reads : List RxWord} {appends writes : List Byte}
    (h : Performs s t reads appends writes) :
    activity s t = reads.map PortEvent.rx ++ appends.map PortEvent.pl ++ writes.map PortEvent.tx := by
  rw [activity, h.1, List.drop_left]

/-- The appends of V_ACCEPT and then its ACK (R84). -/
theorem performs_acceptBlock (f : BlockFields) (s : State) :
    Performs s (acceptBlock f s) [] (padFilter (payload f)) [Config.ack] := by
  simp [Performs]

/-- No outcome writes BLK. -/
theorem Transition.blk_of_decodeBlock {f : BlockFields} (ht : Transition s (decodeBlock f) t) : t.blk = s.blk := by
  refine Vector.ext fun k hk => (ht.blk_frame k hk).resolve_right ?_
  obtain h | h | h := decodeBlock_cases f <;> simp [h]

/-- A completed block is answered by one byte. -/
theorem answer_block (f : BlockFields) : (Segment.block f).answer = [if blockValid f then 0x06 else 0x15] := by
  simp only [Segment.answer]
  split <;> rfl

/-! #### V_ACCEPT's parts as operations of their own (R56, R84; log entry 7) -/

@[simp] theorem filterByte_st (s : State) (b : Byte) : (filterByte s b).st = s.st := by
  unfold filterByte
  split <;> rfl

/-- The operation of a payload byte, PL_DROP or PL_KEEP, does what the filter does with that byte. -/
theorem exec_decodePlb (b : Byte) (hst : s.st = .validating) : exec (decodePlb b) s = .next (filterByte s b) := by
  by_cases hb : b = Config.pad
  · subst hb
    rw [decodePlb_pad]
    exact exec_of_transition (.plDrop s hst)
  · have hkeep : filterByte s b = msgAppend b s := if_neg (mt (isPad_iff b).mp hb)
    rw [decodePlb_of_ne_pad hb, hkeep]
    exact exec_of_transition (.plKeep s b hst hb)

end Sys2Proof.Machine
end

section
namespace Sys2Proof.Proofs

open Sys2Proof.Machine

/-- Settles O17, from the decoder's two checks, neither of which looks at BLK[0]. -/
theorem exactlyOneOutcome : Obligations.ExactlyOneOutcome := by
  refine ⟨decodeBlock_cases, fun f i hi => ?_, fun s s' hst hst' hrst hrst' hblk => ?_,
    fun s hst => ⟨step_total s, fun hrst => fetch_of_validating hrst hst⟩⟩
  · obtain rfl | rfl | rfl := hi <;> exact wf_iff_decodeBlock_eq rfl (by simp [Instr.modes])
  · rw [fetch_of_validating hrst hst, fetch_of_validating hrst' hst', bufferFields_congr hblk]

/-- Settles O30: each intermediate state is the filter's after one more payload byte, and V_ACCEPT is their fold. -/
theorem vAcceptRunsThePayloadOperations : Obligations.VAcceptRunsThePayloadOperations := by
  rintro s f hst rfl hv
  refine ⟨_, _, _, _, _, _, exec_decodePlb _ hst, exec_decodePlb _ ?_, exec_decodePlb _ ?_, exec_decodePlb _ ?_,
    exec_decodePlb _ ?_, exec_of_transition (.txAck _ (.inl ?_)), exec_of_transition (.vAccept s hst hv)⟩ <;>
  simp only [filterByte_st, hst]

/-- Settles O36, by the port activity that answers the block BLK holds. -/
theorem validatingAnswersOnceAndRearms : Obligations.ValidatingAnswersOnceAndRearms := by
  intro s hst hrst
  obtain ⟨t, htr, ht, hidx, -, hrx, hmsg, htx⟩ := validating_answers hst
  exact ⟨t, (step_eq_exec (fetch_of_validating hrst hst)).trans (exec_of_transition htr), ht, hidx,
    htr.blk_of_decodeBlock, hrx.symm, answer_block _ ▸ htx, hmsg⟩

/-- Settles O12: BLK[3] to BLK[7] are the payload fields of the block held. -/
theorem checksumIsTheSumModulo256 : Obligations.ChecksumIsTheSumModulo256 :=
  ⟨checksum_toNat, fun _ => rfl⟩

/-- Settles O13: any order of the sum by the commutative addition of bytes, the complement by its bitwise form. -/
theorem arithmeticForms : Obligations.ArithmeticForms := by
  refine ⟨fun p0 p1 p2 p3 p4 => ⟨?_, checksum_eq_low_byte p0 p1 p2 p3 p4, ?_, ?_⟩,
    fun n => (BitVec.toNat_not (x := n)).symm,
    fun f => ⟨complementOK_iff_xor f, complementOK_iff_add f, complementOK_iff_add_mod f⟩, by decide⟩
  · simp [checksum_eq_add]
  · simp only [checksum_eq_add]
    ac_rfl
  · simp only [checksum_eq_add]
    ac_rfl

/-- Settles O14: the complement that passes is the bitwise one. -/
theorem oneComplementPasses : Obligations.OneComplementPasses :=
  ⟨fun blk => complementOK_iff (bufferFields blk), fun f =>
    ⟨~~~f.seq, fun c => complementOK_iff_eq_not { f with cmp := c }⟩⟩

/-- Settles O15, check by check. -/
theorem blockValidIff : Obligations.BlockValidIff := by
  refine ⟨fun blk => checksumOK_iff (bufferFields blk), fun f => ?_, fun blk b => by rw [bufferFields_set_marker]⟩
  rw [blockValid_iff, complementOK_iff, checksumOK_iff]

/-- Settles O16: the filter keeps exactly the bytes whose value is not 0x03. -/
theorem padFilterDropsEveryPad : Obligations.PadFilterDropsEveryPad :=
  ⟨fun f => ⟨padFilter_eq_filter (payload f), padFilter_payload_length f⟩, fun _ _ => mem_padFilter, by decide⟩

/-- Settles O21, by the effect of the enabled operation. -/
theorem vRejectCmpAnswersNak : Obligations.VRejectCmpAnswersNak := by
  rintro s f hst rfl hc
  have hbad : complementOK (bufferFields s.blk) = false := Bool.eq_false_iff.mpr (mt (complementOK_iff _).mp hc)
  exact ⟨(decode_packBlk _).trans (congrArg Except.ok (decodeBlock_of_bad_complement hbad)),
    _, exec_of_transition (.vRejectCmp s hst hbad), rfl, rfl, rfl, rfl, rfl, rfl⟩

/-- Settles O22, by the effect of the enabled operation. -/
theorem vRejectSumAnswersNak : Obligations.VRejectSumAnswersNak := by
  rintro s f hst rfl hc hk
  have hgood := (complementOK_iff _).mpr hc
  have hbad : checksumOK (bufferFields s.blk) = false := Bool.eq_false_iff.mpr (mt (checksumOK_iff _).mp hk)
  exact ⟨(decode_packBlk _).trans (congrArg Except.ok (decodeBlock_of_bad_checksum hgood hbad)),
    _, exec_of_transition (.vRejectSum s hst hgood hbad), rfl, rfl, rfl, rfl, rfl, rfl⟩

/-- Settles O23, by the port activity of the enabled operation. -/
theorem vAcceptAppendsThenAcks : Obligations.VAcceptAppendsThenAcks := by
  rintro s f hst rfl hc hk
  have hcmp := (complementOK_iff _).mpr hc
  have hsum := (checksumOK_iff _).mpr hk
  have hp := performs_acceptBlock (bufferFields s.blk) s
  rw [padFilter_eq_filter] at hp
  have hact := activity_of_performs hp
  obtain ⟨-, hrx, hmsg, htx⟩ := hp
  exact ⟨(decode_packBlk _).trans (congrArg Except.ok (decodeBlock_of_valid hcmp hsum)),
    _, exec_of_transition (.vAccept s hst ((blockValid_iff _).mpr ⟨hcmp, hsum⟩)),
    ⟨rfl, rfl, acceptBlock_blk .., hmsg, htx, hrx.symm⟩, hact⟩

end Sys2Proof.Proofs
end

section
/-! ### When an operation is enabled (R88), and what each value of ST selects (R90, R93, R100) -/

namespace Sys2Proof.Machine

variable {s t : State} {i : Instr}

/-! #### What an enabled operation needs -/

/-- An operation that cannot have its effect has none. -/
theorem exec_of_not_enabled (h : ∀ t, ¬ Transition s i t) : exec i s = .next s := by
  obtain ⟨t, ht⟩ := exec_total i s
  obtain rfl | htr := exec_next ht
  · exact ht
  · exact absurd htr (h t)

/-- ST has one of the values that the operation's row names. -/
theorem Transition.st_mem_modes (ht : Transition s i t) : s.st ∈ i.modes := by
  cases ht with
  | reset b => cases s.st <;> simp [Instr.modes]
  | _ => simpa [Instr.modes]

/-- The operands meet the condition of the operation's row. -/
theorem Transition.wf (ht : Transition s i t) : i.wf = true := by
  cases ht with
  | rxSkip d rest h hd hd' hr => simpa [Instr.wf] using ⟨hd, hd'⟩
  | vRejectCmp h hc => simpa [Instr.wf] using hc
  | vRejectSum h hc hk => simpa [Instr.wf] using ⟨hc, hk⟩
  | vAccept h hv => exact hv
  | plKeep v h hv => simpa [Instr.wf] using hv
  | _ => rfl

/-- An operation that reads finds its own word as the next read result (R35). -/
theorem Transition.head_rx {w : RxWord} (ht : Transition s i t) (hw : encode i = .rxev w) : s.rx.head? = some w := by
  have hhead {v : RxWord} {rest : List RxWord} (hr : s.rx = v :: rest) (hv : Code.rxev v = .rxev w) :
      s.rx.head? = some w := by rw [hr, Code.rxev.inj hv, List.head?_cons]
  cases ht with
  | rxFail d rest h hr => exact hhead hr hw
  | rxEot rest h hr => exact hhead hr hw
  | rxSoh rest h hr => exact hhead hr hw
  | rxSkip d rest h hd hd' hr => exact hhead hr hw
  | rxBody d rest h hlt hr => exact hhead hr hw
  | _ => cases hw

/-- A validation outcome finds its own block in BLK (R61). -/
theorem Transition.bufferFields_eq {f : BlockFields} (ht : Transition s i t)
    (hw : encode i = .blk72 (packBlk Config.soh f)) : bufferFields s.blk = f := by
  have hpack {g : BlockFields} (h : Code.blk72 (packBlk Config.soh g) = .blk72 (packBlk Config.soh f)) : g = f := by
    rw [← wordFields_packBlk Config.soh g, Code.blk72.inj h, wordFields_packBlk]
  cases ht with
  | vRejectCmp h hc => exact hpack hw
  | vRejectSum h hc hk => exact hpack hw
  | vAccept h hv => exact hpack hw
  | _ => cases hw

theorem exec_of_other_mode (h : s.st ∉ i.modes) : exec i s = .next s :=
  exec_of_not_enabled fun _ ht => h ht.st_mem_modes

theorem exec_of_not_wf (h : i.wf = false) : exec i s = .next s :=
  exec_of_not_enabled fun _ ht => by simp [ht.wf] at h

theorem exec_of_other_word {w : RxWord} (hw : encode i = .rxev w) (h : s.rx.head? ≠ some w) : exec i s = .next s :=
  exec_of_not_enabled fun _ ht => h (ht.head_rx hw)

theorem exec_of_other_block {f : BlockFields} (hw : encode i = .blk72 (packBlk Config.soh f))
    (h : bufferFields s.blk ≠ f) : exec i s = .next s :=
  exec_of_not_enabled fun _ ht => h (ht.bufferFields_eq hw)

/-- In Terminated only RESET is enabled (R93). -/
theorem Transition.eq_reset_of_terminated (ht : Transition s i t) (hst : s.st = .terminated) : ∃ b, i = .reset b := by
  have hmode := hst ▸ ht.st_mem_modes
  cases i with
  | reset b => exact ⟨b, rfl⟩
  | _ => simp [Instr.modes] at hmode

/-! #### What each value of ST selects without `rst` -/

theorem fetch_of_idle (hrst : s.rst = false) (hst : s.st = .idle) :
    fetch s = if s.start then some .start else none := by
  simp [fetch_eq, fetchBlock, hrst, hst]

theorem fetch_of_terminated (hrst : s.rst = false) (hst : s.st = .terminated) : fetch s = none := by
  rw [fetch_of_not_start hrst (.inr (by simp [hst]))]
  simp [fetchBlock, hst]

/-- In a reading state it is what the next read result decodes to (R58, R59). -/
theorem fetch_of_decode {w : RxWord} {rest : List RxWord} (hrst : s.rst = false) (hrx : s.rx = w :: rest)
    (hdec : decode s.st (.rxev w) = .ok i) : fetch s = some i := by
  cases hst : s.st with
  | awaitingStart => rw [hst] at hdec; cases hdec; exact fetch_of_awaitingStart hrst hst hrx
  | readingBlock => rw [hst] at hdec; cases hdec; exact fetch_of_readingBlock hrst hst hrx
  | _ => rw [hst] at hdec; cases hdec

end Sys2Proof.Machine
end

section
namespace Sys2Proof.Proofs

open Sys2Proof.Machine

/-- Settles O52: each operation extends the pieces received, or completes one, or ends the session. -/
theorem stepKeepsTheSessionShape : Obligations.StepKeepsTheSessionShape :=
  fun _ _ hinv h hstep => step_sessionShape hinv h hstep

/-- Settles O33, by what an enabled operation needs: a value of ST of its row, its own word, operands that are well
formed, and, for RX_BODY, a byte of BLK to store into. -/
theorem notEnabledDoesNothing : Obligations.NotEnabledDoesNothing := by
  refine ⟨fun i s => exec_of_other_mode, fun i w s => exec_of_other_word, fun f s h => ?_, fun f s => ?_,
    fun s => ⟨exec_of_not_wf rfl, exec_of_not_wf rfl, exec_of_not_wf rfl⟩, fun d s h9 => ?_⟩
  · exact ⟨exec_of_other_block rfl h, exec_of_other_block rfl h, exec_of_other_block rfl h⟩
  · simp only [ne_eq, ← complementOK_iff, ← checksumOK_iff, Bool.not_eq_true]
    refine ⟨fun hc => ?_, fun hc => ⟨?_, ?_⟩, fun hk => ?_, fun hk => ?_⟩ <;>
      exact exec_of_not_wf (by simp [Instr.wf, *])
  · refine exec_of_not_enabled fun t ht => ?_
    cases ht with
    | rxBody d rest hst hlt hrx => omega

/-- Settles O37: nothing is selected without `rst`, and RESET alone has an effect in Terminated. -/
theorem terminatedIsLeftOnlyByReset : Obligations.TerminatedIsLeftOnlyByReset := by
  intro s hst
  refine ⟨by simp [done, hst], by simp [restPins, hst, readsInput], fun hrst => ?_, fun i t h hne => ?_,
    fun hrst => ⟨_, step_of_rst hrst, rfl, rfl⟩⟩
  · have hf := fetch_of_terminated hrst hst
    exact ⟨hf, step_eq_self hf⟩
  · exact ((exec_next h).resolve_left hne).eq_reset_of_terminated hst

/-- Settles O1, by what is fetched in each case. -/
theorem stepRunsTheDecodedOperation : Obligations.StepRunsTheDecodedOperation := by
  intro s
  refine ⟨fun hrst => ?_, fun hrst hst hstart => ?_, fun w rest i hrst hrx hdec => ?_, fun hrst hst => ?_,
    fun hrst h => ?_⟩
  · exact step_eq_exec (fetch_reset_iff.mpr ⟨hrst, rfl⟩)
  · exact step_eq_exec (by simp [fetch_of_idle hrst hst, hstart])
  · exact step_eq_exec (fetch_of_decode hrst hrx hdec)
  · exact step_eq_exec (fetch_of_validating hrst hst)
  · obtain hst | ⟨hst, hstart⟩ | ⟨hin, hrx⟩ := h
    · exact step_eq_self (fetch_of_terminated hrst hst)
    · exact step_eq_self (by simp [fetch_of_idle hrst hst, hstart])
    · exact step_waits hrst hin hrx

/-- Settles O24, by the effect of the enabled operation; in Idle `Inv` gives IDX 0 and both histories empty. -/
theorem startSendsTheReadyNak : Obligations.StartSendsTheReadyNak := by
  refine ⟨rfl, fun s hst => ⟨_, exec_of_transition (.start s hst), ⟨rfl, rfl, rfl, rfl, rfl, rfl⟩, fun hinv => ?_⟩,
    fun s hst => exec_of_other_mode (by simpa [Instr.modes] using hst)⟩
  exact ⟨hinv.idx_zero (.inl hst), by simp [hinv.idle_iff.mp hst], hinv.idle_msg hst⟩

/-- Settles O25, by the effect of the enabled operation; in Terminated nothing is selected. -/
theorem rxEotAcksAndTerminates : Obligations.RxEotAcksAndTerminates :=
  ⟨congrArg Except.ok decodeAwaiting_eot, fun s rest hst hrx =>
    ⟨_, exec_of_transition (.rxEot s rest hst hrx), ⟨rfl, rfl, rfl, rfl, rfl, rfl⟩, rfl,
      fun hrst => fetch_of_terminated hrst rfl⟩⟩

/-- Settles O26, by the effect of the enabled operation; in Terminated nothing is selected. -/
theorem rxFailTerminatesSilently : Obligations.RxFailTerminatesSilently :=
  fun s d rest hst hrx => ⟨decode_encode (i := .rxFail d) rfl (by simpa [Instr.modes] using hst),
    _, exec_of_transition (.rxFail s d rest hst hrx), ⟨rfl, rfl, rfl, rfl, rfl, rfl⟩, rfl,
    fun hrst => fetch_of_terminated hrst rfl⟩

/-- Settles O38, by what is fetched in Idle. -/
theorem idleWaitsForStart : Obligations.IdleWaitsForStart := by
  intro s hst hrst
  have hf := fetch_of_idle hrst hst
  refine ⟨by simp [restPins, hst, readsInput], fun hstart => ?_, fun hstart => by simp [hf, hstart]⟩
  have hnone : fetch s = none := by simp [hf, hstart]
  exact ⟨hnone, step_eq_self hnone⟩

end Sys2Proof.Proofs
end

section
/-! ### The handling of the error classes (R103, R111), and the outputs after an end (R112) -/

namespace Sys2Proof.Machine

variable {s t : State}

/-! #### What the handling of each class is -/

@[simp] theorem takeError_structural (s : State) : takeError .structural s = rearm (txWrite Config.nak s) := rfl
@[simp] theorem takeError_integrity (s : State) : takeError .integrity s = rearm (txWrite Config.nak s) := rfl
@[simp] theorem takeError_desync (s : State) : takeError .desync s = s := rfl
@[simp] theorem takeError_transport (s : State) : takeError .transport s = abandon s := rfl

/-- E_STRUCT and E_INTEG write one NAK and go on in AwaitingStart (R111). -/
theorem holds_reject (s : State) :
    Holds (rearm (txWrite Config.nak s)) .awaitingStart 0 s.blk s.msg (s.txlog ++ [0x15]) s.rx :=
  ⟨rfl, rfl, rfl, rfl, rfl, rfl⟩

/-- E_XPORT ends the session and writes nothing (R111). -/
theorem holds_abandon (s : State) : Holds (abandon s) .terminated 0 s.blk s.msg s.txlog s.rx :=
  ⟨rfl, rfl, rfl, rfl, rfl, rfl⟩

/-! #### The two ends of a session -/

/-- RX_EOT, when the next read result is its own, ends in Terminated (R91). -/
theorem st_of_exec_rxEot (hst : s.st = .awaitingStart) (hrx : s.rx.head? = some (byteWord Config.eot))
    (h : exec .rxEot s = .next t) : t.st = .terminated := by
  obtain ⟨rest, hs⟩ := List.head?_eq_some_iff.mp hrx
  cases h.symm.trans (exec_of_transition (.rxEot s rest hst hs))
  rfl

/-- RX_FAIL, when the next read result is its own, ends in Terminated from either reading state (R92). -/
theorem st_of_exec_rxFail {d : Byte} (hin : readsInput s.st = true) (hrx : s.rx.head? = some (failWord d))
    (h : exec (.rxFail d) s = .next t) : t.st = .terminated := by
  obtain ⟨rest, hs⟩ := List.head?_eq_some_iff.mp hrx
  cases h.symm.trans (exec_of_transition (.rxFail s d rest ((readsInput_iff _).mp hin) hs))
  rfl

/-- The outputs between two operations are a function of ST alone (R26). -/
theorem outputs_congr (h : s.st = t.st) : done s = done t ∧ stateOut s = stateOut t ∧ restPins s = restPins t := by
  simp only [done, stateOut, restPins, h, and_self]

end Sys2Proof.Machine
end

section
namespace Sys2Proof.Proofs

open Sys2Proof.Machine

/-- Settles O34: the effect of each handling, then each of the four operations, enabled, as the handling of its class;
the two that read do so by RxRead. -/
theorem errorClassesAreHandled : Obligations.ErrorClassesAreHandled := by
  refine ⟨?_, takeError_desync, fun s => ?_, ?_, ?_, ?_, ?_⟩
  · rintro s e (rfl | rfl)
    · rw [takeError_structural]
      exact holds_reject s
    · rw [takeError_integrity]
      exact holds_reject s
  · rw [takeError_transport]
    exact holds_abandon s
  · intro s f hheld hc
    obtain ⟨hst, rfl⟩ := holdsBlock_iff.mp hheld
    rw [takeError_structural]
    exact exec_of_transition (.vRejectCmp s hst hc)
  · intro s f hheld hc hk
    obtain ⟨hst, rfl⟩ := holdsBlock_iff.mp hheld
    rw [takeError_integrity]
    exact exec_of_transition (.vRejectSum s hst hc hk)
  · intro s t d hst hsoh heot hread
    obtain ⟨-, rest, hrx, rfl⟩ := rxRead_eq_some.mp hread
    rw [takeError_desync]
    exact exec_of_transition (.rxSkip s d rest hst hsoh heot hrx)
  · intro s t d hread
    obtain ⟨hin, rest, hrx, rfl⟩ := rxRead_eq_some.mp hread
    rw [takeError_transport]
    exact exec_of_transition (.rxFail s d rest ((readsInput_iff _).mp hin) hrx)

/-- Settles O56: both operations end in Terminated, and the outputs show ST alone. -/
theorem endsLookTheSame : Obligations.EndsLookTheSame := by
  intro s s' t t' d hst hrx hin hrx' heot hfail
  have ht : t.st = .terminated := st_of_exec_rxEot hst hrx heot
  have ht' : t'.st = .terminated := st_of_exec_rxFail hin hrx' hfail
  obtain ⟨hdone, hstate, hpins⟩ := outputs_congr (ht.trans ht'.symm)
  have hended : done t = true := by simp [done, ht]
  exact ⟨hended, hdone ▸ hended, hstate, hpins⟩

end Sys2Proof.Proofs
end

section
/-! ### RESET from any state (R119), and a read that does not return (R127) -/

namespace Sys2Proof.Machine

variable {s : State}

/-! #### RESET -/

theorem mem_modes_reset (st : St) (b : Bool) : st ∈ (Instr.reset b).modes := by cases st <;> simp [Instr.modes]

/-- RESET makes no port activity: the record of it begins anew (R119). -/
theorem activity_resetAll (s : State) : activity s (resetAll s) = [] := List.drop_nil

/-! #### Waiting -/

theorem Waiting.st_ne_idle (h : Waiting s) : s.st ≠ .idle := fun hst => by simp [Waiting, hst, readsInput] at h

/-- A hang is not the end of a session (R94). -/
theorem Waiting.not_final (h : Waiting s) : ¬ Final s := fun hst => by
  simp [Waiting, show s.st = .terminated from hst, readsInput] at h

/-- Only `start` in Idle and `rst` are selected without a read result, so a block that waits selects nothing. -/
theorem Waiting.fetch_eq_none (h : Waiting s) (hrst : s.rst = false) : fetch s = none := by
  rw [fetch_of_not_start hrst (.inr h.st_ne_idle)]
  obtain ⟨hin, hrx⟩ := h
  obtain hst | hst := (readsInput_iff s.st).mp hin
  · simp [fetchBlock, hst, hrx]
  · simp [fetchBlock, hst, hrx]

theorem done_eq_false_iff : done s = false ↔ ¬ Final s := by simp [done, Final]

end Sys2Proof.Machine
end

section
namespace Sys2Proof.Proofs

open Sys2Proof.Machine

/-- Settles O27: `resetAll s` is the next state, whatever `s` is, and `rst` selects RESET before all else. -/
theorem resetFromAnyState : Obligations.ResetFromAnyState := fun s b =>
  ⟨decode_encode (i := .reset b) rfl (mem_modes_reset s.st b),
    resetAll s, exec_of_transition (.reset s b), rfl, rfl, rfl, rfl, rfl, activity_resetAll s, rfl, rfl, rfl,
    fun hrst => step_eq_exec (fetch_reset_iff.mpr ⟨hrst, rfl⟩)⟩

/-- Settles O39: nothing is selected, so the state is a fixed point of the step, and it is not Terminated. -/
theorem readWaitsForEver : Obligations.ReadWaitsForEver := fun _ h hrst =>
  have hf := h.fetch_eq_none hrst
  ⟨hf, step_eq_self hf, h.1, done_eq_false_iff.mpr h.not_final, h.not_final⟩

end Sys2Proof.Proofs
end
